-- ==== Sys2Proof/Word.lean ====
section
/-!
DEFINITION. The word types of the block: bytes, 16-bit words, 4-bit fields and 12-bit addresses
(spec/00_scope.md R6 to R8, spec/30_encoding.md R81). All values are unsigned (R8).
-/

namespace Sys2Proof

/-- One byte: a general register, a timer, a memory cell, the immediate `nn` (R6, R21, R50, R81). -/
abbrev Byte := BitVec 8

/-- Sixteen bits: an instruction word, `I`, `pc`, a stack entry (R6, R24, R25, R27). -/
abbrev Word := BitVec 16

/-- A 4-bit field of an instruction word: a register index `x` or `y`, or the count `n` (R81). -/
abbrev Nibble := BitVec 4

/-- A 12-bit address immediate `nnn` (R81, R83). -/
abbrev Addr := BitVec 12

end Sys2Proof
end

