-- ==== Sys2Proof/Config.lean ====
section
/-!
DEFINITION. What an implementation fixes and what the spec leaves free: the model parameters of
spec/00_scope.md R6, the host events of spec/60_exceptions.md R232 and R243, and the two free
values (the order in which events come, and the random byte), which have no body.
-/

namespace Sys2Proof

/-- The parameter `OPCODE_SET` (R2, R6, 92 D1). -/
inductive OpcodeSet where
  | documented
  | extended
  deriving DecidableEq, Repr, Inhabited

/-- The parameters of R6 that a model may quantify over: the opcode set and the four quirks
(92 D1, D26 to D29). A state carries one value of them and no step changes it (log entry 1). -/
structure Params where
  opcodeSet : OpcodeSet
  /-- `QUIRK_LOGIC_VF_RESET` (R161 to R163). -/
  quirkLogicVfReset : Bool
  /-- `QUIRK_SHIFT_SOURCE_VY` (R166, R168). -/
  quirkShiftSourceVy : Bool
  /-- `QUIRK_LOADSTORE_INC_I` (R191, R192). -/
  quirkLoadStoreIncI : Bool
  /-- `QUIRK_JUMP_VX` (R146). -/
  quirkJumpVx : Bool
  deriving DecidableEq, Repr, Inhabited

/-- What can happen next at the block's ports, one atomic action each (R110, R217, R228, R243). -/
inductive Event where
  /-- `step_strobe`: the instruction clock asks for one step (R100). -/
  | step
  /-- `tick_strobe`: the 60 Hz timer clock asks for one tick (R225). -/
  | tick
  /-- `run_cmd` (R230). -/
  | run
  /-- `stop_cmd` (R230, R231). -/
  | stop
  /-- `load_req` with its byte sequence (R236, R253). -/
  | load (rom : List Byte)
  /-- The keypad collaborator changes the `keys` input (R235). -/
  | keys (held : BitVec 16)
  deriving DecidableEq, Repr, Inhabited

/-- FREE VALUE. The `n`-th event that comes once a state's own list of pending events is used up:
any interleaving of whole steps, ticks and host operations is admitted (R228, R266, 92 D17), so
nothing constrains it (log entry 2). -/
opaque Config.freeEvent : Nat → Event

/-- FREE VALUE. The byte that the `rand` input supplies to the `n`-th execution of `CXNN`: a free
draw under no law (R239, 92 D32; log entry 4). -/
opaque Config.rand : Nat → Byte

end Sys2Proof
end

