-- ==== Sys2Proof/Syntax.lean ====
section
/-!
DEFINITION. The instructions: one constructor per row of spec/opcode_table.json, in its order.
Fields are the bit fields of spec/30_encoding.md R81; a register field is a nibble, so an index
outside 0..15 cannot be written (spec/10_state.md R23, spec/30_encoding.md R84).
-/

namespace Sys2Proof

inductive Instr where
  /-- `00E0` CLS (R120). -/
  | cls
  /-- `00EE` RET (R140). -/
  | ret
  /-- `1NNN` JP addr (R121). -/
  | jp (nnn : Addr)
  /-- `2NNN` CALL addr (R141). -/
  | call (nnn : Addr)
  /-- `3XNN` SE Vx, byte (R142). -/
  | seVxNn (x : Nibble) (nn : Byte)
  /-- `4XNN` SNE Vx, byte (R143). -/
  | sneVxNn (x : Nibble) (nn : Byte)
  /-- `5XY0` SE Vx, Vy (R144). -/
  | seVxVy (x y : Nibble)
  /-- `6XNN` LD Vx, byte (R122). -/
  | ldVxNn (x : Nibble) (nn : Byte)
  /-- `7XNN` ADD Vx, byte (R123). -/
  | addVxNn (x : Nibble) (nn : Byte)
  /-- `8XY0` LD Vx, Vy (R160). -/
  | ldVxVy (x y : Nibble)
  /-- `8XY1` OR Vx, Vy (R161). -/
  | orVxVy (x y : Nibble)
  /-- `8XY2` AND Vx, Vy (R162). -/
  | andVxVy (x y : Nibble)
  /-- `8XY3` XOR Vx, Vy (R163). -/
  | xorVxVy (x y : Nibble)
  /-- `8XY4` ADD Vx, Vy (R164). -/
  | addVxVy (x y : Nibble)
  /-- `8XY5` SUB Vx, Vy (R165). -/
  | sub (x y : Nibble)
  /-- `8XY6` SHR Vx, Vy (R166). -/
  | shr (x y : Nibble)
  /-- `8XY7` SUBN Vx, Vy (R167). -/
  | subn (x y : Nibble)
  /-- `8XYE` SHL Vx, Vy (R168). -/
  | shl (x y : Nibble)
  /-- `9XY0` SNE Vx, Vy (R145). -/
  | sneVxVy (x y : Nibble)
  /-- `ANNN` LD I, addr (R124). -/
  | ldI (nnn : Addr)
  /-- `BNNN` JP V0, addr (R146). -/
  | jpV0 (nnn : Addr)
  /-- `CXNN` RND Vx, byte (R169). -/
  | rnd (x : Nibble) (nn : Byte)
  /-- `DXYN` DRW Vx, Vy, nibble (R125). -/
  | drw (x y n : Nibble)
  /-- `EX9E` SKP Vx (R181). -/
  | skp (x : Nibble)
  /-- `EXA1` SKNP Vx (R182). -/
  | sknp (x : Nibble)
  /-- `FX07` LD Vx, DT (R184). -/
  | ldVxDt (x : Nibble)
  /-- `FX0A` LD Vx, K (R183). -/
  | ldVxK (x : Nibble)
  /-- `FX15` LD DT, Vx (R186). -/
  | ldDtVx (x : Nibble)
  /-- `FX18` LD ST, Vx (R187). -/
  | ldStVx (x : Nibble)
  /-- `FX1E` ADD I, Vx (R188). -/
  | addIVx (x : Nibble)
  /-- `FX29` LD F, Vx (R189). -/
  | ldFVx (x : Nibble)
  /-- `FX33` LD B, Vx (R190). -/
  | ldBVx (x : Nibble)
  /-- `FX55` LD [I], Vx (R191). -/
  | ldMemVx (x : Nibble)
  /-- `FX65` LD Vx, [I] (R192). -/
  | ldVxMem (x : Nibble)
  deriving DecidableEq, Repr

end Sys2Proof
end

