-- ==== Sys2Proof/WellFormed.lean ====
section
/-!
DEFINITION. When an instruction exists: every field is a bit field of its own width (R23, R84), so
the one check left is the profile, whether the selected `OPCODE_SET` has the instruction
(spec/00_scope.md R2 and R11, the "profile" of spec/opcode_table.json).
-/

namespace Sys2Proof

/-- The six instructions of `DOCUMENTED` (R2); the other rows are `EXTENDED` only. -/
def Instr.isDocumented : Instr → Bool
  | .cls => true
  | .ret => false
  | .jp _ => true
  | .call _ => false
  | .seVxNn _ _ => false
  | .sneVxNn _ _ => false
  | .seVxVy _ _ => false
  | .ldVxNn _ _ => true
  | .addVxNn _ _ => true
  | .ldVxVy _ _ => false
  | .orVxVy _ _ => false
  | .andVxVy _ _ => false
  | .xorVxVy _ _ => false
  | .addVxVy _ _ => false
  | .sub _ _ => false
  | .shr _ _ => false
  | .subn _ _ => false
  | .shl _ _ => false
  | .sneVxVy _ _ => false
  | .ldI _ => true
  | .jpV0 _ => false
  | .rnd _ _ => false
  | .drw _ _ _ => true
  | .skp _ => false
  | .sknp _ => false
  | .ldVxDt _ => false
  | .ldVxK _ => false
  | .ldDtVx _ => false
  | .ldStVx _ => false
  | .addIVx _ => false
  | .ldFVx _ => false
  | .ldBVx _ => false
  | .ldMemVx _ => false
  | .ldVxMem _ => false

/-- `i` is an instruction of the opcode set `set` (R2). -/
def Instr.wf (set : OpcodeSet) (i : Instr) : Bool :=
  match set with
  | .documented => i.isDocumented
  | .extended => true

end Sys2Proof
end

