-- ==== Sys2Proof/Decode.lean ====
section
/-!
DEFINITION. The decoder of spec/30_encoding.md R85, total on every word and on any bytes, the
encoder written from the formats of R82 and the patterns of R90, and the rows of
spec/opcode_table.json as masks and patterns.
-/

namespace Sys2Proof

/-- nibble₀, the operation family, bits 15..12 (R81). -/
def fieldOp (w : Word) : Nibble := w.extractLsb' 12 4

/-- `x`, bits 11..8 (R81). -/
def fieldX (w : Word) : Nibble := w.extractLsb' 8 4

/-- `y`, bits 7..4 (R81). -/
def fieldY (w : Word) : Nibble := w.extractLsb' 4 4

/-- `n`, bits 3..0 (R81). -/
def fieldN (w : Word) : Nibble := w.extractLsb' 0 4

/-- `nn`, bits 7..0 (R81). -/
def fieldNN (w : Word) : Byte := w.extractLsb' 0 8

/-- `nnn`, bits 11..0 (R81). -/
def fieldNNN (w : Word) : Addr := w.extractLsb' 0 12

/-- `{hi, lo}` of two bytes, `hi * 256 + lo` (R8). -/
def joinBytes (hi lo : Byte) : Word := BitVec.ofNat 16 (hi.toNat * 256 + lo.toNat)

/-- Format `A`: `{op, nnn}` (R82). -/
def joinA (op : Nibble) (nnn : Addr) : Word := BitVec.ofNat 16 (op.toNat * 4096 + nnn.toNat)

/-- Formats `RB` and `RF`: `{op, x, nn}` (R82). -/
def joinRB (op x : Nibble) (nn : Byte) : Word :=
  BitVec.ofNat 16 (op.toNat * 4096 + x.toNat * 256 + nn.toNat)

/-- Formats `RRN` and `RRF`: `{op, x, y, n}` (R82). -/
def joinRRN (op x y n : Nibble) : Word :=
  BitVec.ofNat 16 (op.toNat * 4096 + x.toNat * 256 + y.toNat * 16 + n.toNat)

/-- The `8XYN` family, selected by `n` (R85). -/
def decodeAlu (x y n : Nibble) : Option Instr :=
  match n.toNat with
  | 0x0 => some (.ldVxVy x y)
  | 0x1 => some (.orVxVy x y)
  | 0x2 => some (.andVxVy x y)
  | 0x3 => some (.xorVxVy x y)
  | 0x4 => some (.addVxVy x y)
  | 0x5 => some (.sub x y)
  | 0x6 => some (.shr x y)
  | 0x7 => some (.subn x y)
  | 0xE => some (.shl x y)
  | _ => none

/-- The `EXNN` family, selected by `nn` (R85). -/
def decodeKey (x : Nibble) (nn : Byte) : Option Instr :=
  match nn.toNat with
  | 0x9E => some (.skp x)
  | 0xA1 => some (.sknp x)
  | _ => none

/-- The `FXNN` family, selected by `nn` (R85). -/
def decodeMisc (x : Nibble) (nn : Byte) : Option Instr :=
  match nn.toNat with
  | 0x07 => some (.ldVxDt x)
  | 0x0A => some (.ldVxK x)
  | 0x15 => some (.ldDtVx x)
  | 0x18 => some (.ldStVx x)
  | 0x1E => some (.addIVx x)
  | 0x29 => some (.ldFVx x)
  | 0x33 => some (.ldBVx x)
  | 0x55 => some (.ldMemVx x)
  | 0x65 => some (.ldVxMem x)
  | _ => none

/-- The part of R85 that only `EXTENDED` reaches: families 2, 3, 4, 5, 8, 9, B, C, E, F. -/
def decodeExtended (w : Word) : Option Instr :=
  match (fieldOp w).toNat with
  | 0x2 => some (.call (fieldNNN w))
  | 0x3 => some (.seVxNn (fieldX w) (fieldNN w))
  | 0x4 => some (.sneVxNn (fieldX w) (fieldNN w))
  | 0x5 => if fieldN w = 0 then some (.seVxVy (fieldX w) (fieldY w)) else none
  | 0x8 => decodeAlu (fieldX w) (fieldY w) (fieldN w)
  | 0x9 => if fieldN w = 0 then some (.sneVxVy (fieldX w) (fieldY w)) else none
  | 0xB => some (.jpV0 (fieldNNN w))
  | 0xC => some (.rnd (fieldX w) (fieldNN w))
  | 0xE => decodeKey (fieldX w) (fieldNN w)
  | 0xF => decodeMisc (fieldX w) (fieldNN w)
  | _ => none

/-- `Decode(w, set)` of R85: an instruction of the set with its fields, or `none` for `Unknown`. -/
def decodeWord (set : OpcodeSet) (w : Word) : Option Instr :=
  match (fieldOp w).toNat with
  | 0x0 =>
    if w = 0x00E0 then some .cls
    else if set = .extended ∧ w = 0x00EE then some .ret
    else none
  | 0x1 => some (.jp (fieldNNN w))
  | 0x6 => some (.ldVxNn (fieldX w) (fieldNN w))
  | 0x7 => some (.addVxNn (fieldX w) (fieldNN w))
  | 0xA => some (.ldI (fieldNNN w))
  | 0xD => some (.drw (fieldX w) (fieldY w) (fieldN w))
  | _ =>
    match set with
    | .documented => none
    | .extended => decodeExtended w

/-- Why bytes give no instruction. -/
inductive DecodeError where
  /-- Fewer than two bytes are left: an instruction is one 16-bit word (R80). -/
  | truncated
  /-- The word decodes to `Unknown` (R85, R88): the engine reports it and skips (R106). -/
  | unknownOpcode (w : Word)
  deriving DecidableEq, Repr

/-- The decoder on bytes in memory order: high byte first (R58, R59, R80). It answers the
instruction and the bytes after it. -/
def decode (set : OpcodeSet) : List Byte → Except DecodeError (Instr × List Byte)
  | hi :: lo :: rest =>
    match decodeWord set (joinBytes hi lo) with
    | some i => .ok (i, rest)
    | none => .error (.unknownOpcode (joinBytes hi lo))
  | _ => .error .truncated

/-- The word of an instruction (the patterns of R82 and R90). -/
def encode : Instr → Word
  | .cls => 0x00E0
  | .ret => 0x00EE
  | .jp nnn => joinA 0x1 nnn
  | .call nnn => joinA 0x2 nnn
  | .seVxNn x nn => joinRB 0x3 x nn
  | .sneVxNn x nn => joinRB 0x4 x nn
  | .seVxVy x y => joinRRN 0x5 x y 0x0
  | .ldVxNn x nn => joinRB 0x6 x nn
  | .addVxNn x nn => joinRB 0x7 x nn
  | .ldVxVy x y => joinRRN 0x8 x y 0x0
  | .orVxVy x y => joinRRN 0x8 x y 0x1
  | .andVxVy x y => joinRRN 0x8 x y 0x2
  | .xorVxVy x y => joinRRN 0x8 x y 0x3
  | .addVxVy x y => joinRRN 0x8 x y 0x4
  | .sub x y => joinRRN 0x8 x y 0x5
  | .shr x y => joinRRN 0x8 x y 0x6
  | .subn x y => joinRRN 0x8 x y 0x7
  | .shl x y => joinRRN 0x8 x y 0xE
  | .sneVxVy x y => joinRRN 0x9 x y 0x0
  | .ldI nnn => joinA 0xA nnn
  | .jpV0 nnn => joinA 0xB nnn
  | .rnd x nn => joinRB 0xC x nn
  | .drw x y n => joinRRN 0xD x y n
  | .skp x => joinRB 0xE x 0x9E
  | .sknp x => joinRB 0xE x 0xA1
  | .ldVxDt x => joinRB 0xF x 0x07
  | .ldVxK x => joinRB 0xF x 0x0A
  | .ldDtVx x => joinRB 0xF x 0x15
  | .ldStVx x => joinRB 0xF x 0x18
  | .addIVx x => joinRB 0xF x 0x1E
  | .ldFVx x => joinRB 0xF x 0x29
  | .ldBVx x => joinRB 0xF x 0x33
  | .ldMemVx x => joinRB 0xF x 0x55
  | .ldVxMem x => joinRB 0xF x 0x65

/-- The high byte of a word, stored at the lower address (R58, R59). -/
def highByte (w : Word) : Byte := w.extractLsb' 8 8

/-- The low byte of a word (R58, R59). -/
def lowByte (w : Word) : Byte := w.extractLsb' 0 8

/-- A word as two bytes in memory order (R59). -/
def wordBytes (w : Word) : List Byte := [highByte w, lowByte w]

/-- The bytes of an instruction in memory order. -/
def encodeBytes (i : Instr) : List Byte := wordBytes (encode i)

/-- A row of spec/opcode_table.json: the bits it fixes, their values, and whether `DOCUMENTED` has
it (every row is in `EXTENDED`). -/
structure OpcodeRow where
  mask : Word
  pattern : Word
  documented : Bool
  deriving DecidableEq, Repr

/-- The rows of spec/opcode_table.json in its order ("mask", "match", "profile"). -/
def opcodeRows : List OpcodeRow :=
  [⟨0xFFFF, 0x00E0, true⟩, ⟨0xFFFF, 0x00EE, false⟩, ⟨0xF000, 0x1000, true⟩,
    ⟨0xF000, 0x2000, false⟩, ⟨0xF000, 0x3000, false⟩, ⟨0xF000, 0x4000, false⟩,
    ⟨0xF00F, 0x5000, false⟩, ⟨0xF000, 0x6000, true⟩, ⟨0xF000, 0x7000, true⟩] ++
  [⟨0xF00F, 0x8000, false⟩, ⟨0xF00F, 0x8001, false⟩, ⟨0xF00F, 0x8002, false⟩,
    ⟨0xF00F, 0x8003, false⟩, ⟨0xF00F, 0x8004, false⟩, ⟨0xF00F, 0x8005, false⟩,
    ⟨0xF00F, 0x8006, false⟩, ⟨0xF00F, 0x8007, false⟩, ⟨0xF00F, 0x800E, false⟩] ++
  [⟨0xF00F, 0x9000, false⟩, ⟨0xF000, 0xA000, true⟩, ⟨0xF000, 0xB000, false⟩,
    ⟨0xF000, 0xC000, false⟩, ⟨0xF000, 0xD000, true⟩, ⟨0xF0FF, 0xE09E, false⟩,
    ⟨0xF0FF, 0xE0A1, false⟩] ++
  [⟨0xF0FF, 0xF007, false⟩, ⟨0xF0FF, 0xF00A, false⟩, ⟨0xF0FF, 0xF015, false⟩,
    ⟨0xF0FF, 0xF018, false⟩, ⟨0xF0FF, 0xF01E, false⟩, ⟨0xF0FF, 0xF029, false⟩,
    ⟨0xF0FF, 0xF033, false⟩, ⟨0xF0FF, 0xF055, false⟩, ⟨0xF0FF, 0xF065, false⟩]

/-- `w` has the bits that the row fixes. -/
def OpcodeRow.fits (r : OpcodeRow) (w : Word) : Bool := w &&& r.mask == r.pattern

/-- The row belongs to the opcode set. -/
def OpcodeRow.isIn (r : OpcodeRow) : OpcodeSet → Bool
  | .documented => r.documented
  | .extended => true

/-- The instruction this decoder reads from an instruction of `nbits` bits `w`, numbered as
spec/opcode_table.json numbers them: one 16-bit word, its high byte at the lower address (R59),
in the set that has every row (`EXTENDED`). -/
def decodeTableWord (nbits w : Nat) : Option Instr :=
  match decode .extended (wordBytes (BitVec.ofNat 16 (w % 2 ^ nbits))) with
  | .ok (i, _) => some i
  | .error _ => none

end Sys2Proof
end

