-- ==== Sys2Proof/Machine/State.lean ====
section
/-!
DEFINITION. The state of one machine (spec/10_state.md R20 to R41), its ports that a step reads or
drives (spec/60_exceptions.md R232), the reset state (spec/70_reset_and_hazards.md R250, R251), and
the reasons a step can stop.
-/

namespace Sys2Proof.Machine

/-- `RUN` (R34). -/
inductive RunState where
  | stopped
  | running
  deriving DecidableEq, Repr

/-- The `cause` field of `FAULT` (R35, R210). -/
inductive Cause where
  | none
  | invalidAddress
  | stackOverflow
  | stackUnderflow
  deriving DecidableEq, Repr

/-- `FAULT`, the sticky fault status record, shown on `fault_out` (R35, R237). -/
structure FaultRecord where
  cause : Cause
  /-- Address of the faulting instruction. -/
  fpc : Word
  /-- The instruction word, or 0 when the fetch itself faulted. -/
  fword : Word
  /-- For InvalidAddress the first out-of-range byte address, else 0. -/
  faddr : Word
  deriving DecidableEq, Repr

/-- One event of the `unknown_report` output (R214). -/
structure Report where
  addr : Word
  word : Word
  deriving DecidableEq, Repr

/-- The `load_status` output (R232). -/
inductive LoadStatus where
  | ok
  /-- OutOfBounds, with the length that R210 has it record: that of the ROM refused. -/
  | outOfBounds (length : Nat)
  deriving DecidableEq, Repr

/-- What the block drives on its strobed outputs in ONE transition (R232); the two outputs that can
be read at any time are the fields `dispOut` and `fault` of the state. The stream of reports that R214 makes
part of the observation is the sequence of these records along a run (log entry 5). -/
structure Output where
  /-- `disp_publish`: the step committed or ended in UnknownOpcode (R108, R233). -/
  publish : Bool
  /-- `unknown_report` (R214). -/
  report : Option Report
  /-- `audio`: the level of this tick; nothing between ticks (R226, R234). -/
  audio : Option Bool
  /-- `load_status`: the answer to this load (R215, R253). -/
  load : Option LoadStatus
  deriving DecidableEq, Repr

/-- Nothing is driven. -/
def Output.silent : Output := ⟨false, none, none, none⟩

/-- `MEM` as the cells that differ from what an unlisted address reads as (R32, R50), sorted by
address; the form is `Memory.wf` of Machine/Ops.lean. -/
abbrev Memory := List Host.Cell

/-- `DISP[px][py]`: 64 columns of 32 one-bit cells (R31). -/
abbrev Display := Vector (Vector Bool 32) 64

/-- The state of one machine: the tuple of R20, and after it the model's own fields. -/
structure State where
  /-- `V0`..`VF` (R21). -/
  v : Vector Byte 16
  /-- The index register (R24). -/
  i : Word
  /-- The program counter; between steps the address of the next instruction (R25). -/
  pc : Word
  /-- The call stack's entries (R27). -/
  stack : Vector Word 16
  /-- The number of valid stack entries, 0..16 (R28). -/
  sp : Fin 17
  /-- The delay timer (R29). -/
  dt : Byte
  /-- The sound timer (R30). -/
  st : Byte
  /-- The memory (R32). -/
  mem : Memory
  /-- The display buffer (R31). -/
  disp : Display
  /-- The running condition (R34). -/
  run : RunState
  /-- The fault status record (R35). -/
  fault : FaultRecord
  /-- MODEL: the parameters this machine was built with (R6; log entry 1). No step changes them. -/
  params : Params
  /-- MODEL: the level of the `keys` input, bit k = key k held (R33, R235; log entry 3). -/
  keys : BitVec 16
  /-- MODEL: the events that come next, oldest first; after the last of them the events are free
  (R228, R243; log entry 2). -/
  pending : List Event
  /-- MODEL: how many free events have been taken (log entry 2). -/
  eventIx : Nat
  /-- MODEL: how many bytes have been drawn from the `rand` input (R239; log entry 4). -/
  randIx : Nat
  /-- `disp_out`: the buffer as of the last completed step (R232, R243); what a publish exposes stays
  current until the next publish (R108, R233; log entry 5). -/
  dispOut : Display
  /-- MODEL: the strobed outputs of the latest transition (R232; log entry 5). -/
  out : Output
  deriving DecidableEq, Repr

/-- No step of this machine stops: every error that the spec names has an effect that the spec
gives (the `FAULT` record of R109, the report of R106, the load status of R254) and so ends in a
next state. So there is no reason to list here; nothing raises a fault, which is safe (log entry 7). -/
inductive Fault where
  deriving DecidableEq, Repr

/-- Reasons the model declines an instruction. -/
inductive Refusal where
  /-- An instruction of the opcode table that has no meaning yet. Raised by an arm of `exec` only;
  no arm raises it now. Safe. -/
  | notModelled (mnemonic : String)
  deriving DecidableEq, Repr

/-- The answer of a meaning or of a step. -/
abbrev Result := Host.Outcome State Fault Refusal

/-- `FAULT = (NONE, 0, 0, 0)` (R35). -/
def FaultRecord.clear : FaultRecord := ⟨.none, 0, 0, 0⟩

/-- Every cell 0 (R31). -/
def Display.blank : Display := Vector.replicate 64 (Vector.replicate 32 false)

/-- The machine at creation (R20, R250, R251 (a)). The fields after `fault` are the model's own:
the parameters are the spec's defaults with the opcode set that has every instruction (log entry
1), no key is held (log entry 3), nothing is pending, the counters stand at 0, and `disp_out` is blank
as `disp` is (log entry 5). -/
def State.reset : State where
  v := Vector.replicate 16 0
  i := 0
  pc := 0x0200
  stack := Vector.replicate 16 0
  sp := 0
  dt := 0
  st := 0
  mem := []
  disp := Display.blank
  run := .stopped
  fault := FaultRecord.clear
  params := ⟨.extended, false, false, false, false⟩
  keys := 0
  pending := []
  eventIx := 0
  randIx := 0
  dispOut := Display.blank
  out := Output.silent

end Sys2Proof.Machine
end

