-- ==== Sys2Proof/Machine/Ops.lean ====
section
/-!
DEFINITION. The named operations: memory and its bounds check (spec/20_memory.md), registers, pc
and stack (spec/10_state.md), the display's cells, ending a step by a commit, a report or a fault
(spec/40_cycle.md R106 to R109), the tick, and reset and ROM load (spec/60_exceptions.md R225,
spec/70_reset_and_hazards.md R250 to R254).
-/

namespace Sys2Proof.Machine

/-! ### Memory -/

/-- The font, 16 glyphs of 5 rows (R53). -/
def fontBytes : List Byte :=
  [0xF0, 0x90, 0x90, 0x90, 0xF0,  0x20, 0x60, 0x20, 0x20, 0x70,
    0xF0, 0x10, 0xF0, 0x80, 0xF0,  0xF0, 0x10, 0xF0, 0x10, 0xF0] ++
  [0x90, 0x90, 0xF0, 0x10, 0x10,  0xF0, 0x80, 0xF0, 0x10, 0xF0,
    0xF0, 0x80, 0xF0, 0x90, 0xF0,  0xF0, 0x10, 0x20, 0x40, 0x40] ++
  [0xF0, 0x90, 0xF0, 0x90, 0xF0,  0xF0, 0x90, 0xF0, 0x10, 0xF0,
    0xF0, 0x90, 0xF0, 0x90, 0x90,  0xE0, 0x90, 0xE0, 0x90, 0xE0] ++
  [0xF0, 0x80, 0x80, 0x80, 0xF0,  0xE0, 0x90, 0x90, 0x90, 0xE0,
    0xF0, 0x80, 0xF0, 0x80, 0xF0,  0xF0, 0x80, 0xF0, 0x80, 0x80]

/-- `FONT_BASE` (R6, R53). -/
def fontBase : Nat := 0x050

/-- `PROGRAM_BASE` (R6, R51). -/
def programBase : Nat := 0x200

/-- `MEM_SIZE` (R6, R50). -/
def memSize : Nat := 4096

/-- What an unlisted address reads as: the reset contents, the font and 0 elsewhere (R51, R250). -/
def Memory.initial (a : Nat) : Byte :=
  if fontBase ≤ a then fontBytes.getD (a - fontBase) 0 else 0

/-- The byte at address `a`. The bounds check is the access's (`checkRange`). -/
def Memory.read : Memory → Nat → Byte
  | [], a => Memory.initial a
  | c :: m, a => if c.1 = a then c.2 else Memory.read m a

/-- Put a cell in front unless it holds what its address reads as anyway. -/
def Memory.cons (a : Nat) (b : Byte) (m : Memory) : Memory :=
  if b = Memory.initial a then m else (a, b) :: m

/-- `MEM[a] <- b`, keeping the canonical form. -/
def Memory.write : Memory → Nat → Byte → Memory
  | [], a, b => Memory.cons a b []
  | c :: m, a, b =>
    if a < c.1 then Memory.cons a b (c :: m)
    else if a = c.1 then Memory.cons a b m
    else c :: Memory.write m a b

/-- `MEM[a + k] <- bytes[k]` for every `k`. -/
def Memory.writeBytes : Memory → Nat → List Byte → Memory
  | m, _, [] => m
  | m, a, b :: bs => Memory.writeBytes (Memory.write m a b) (a + 1) bs

/-- The canonical form: addresses strictly rising, each in the address space (R50), and no cell
that holds what its address reads as unlisted. -/
abbrev Memory.wf (m : Memory) : Prop :=
  m.Pairwise (fun c d => c.1 < d.1) ∧ ∀ c ∈ m, c.1 < memSize ∧ c.2 ≠ Memory.initial c.1

/-- The bounds check of an access to `len` bytes from `start`, an exact natural number (R57): the
lowest out-of-range address when there is one (R62, R211). -/
def checkRange (start len : Nat) : Option Nat :=
  if 0 < len ∧ 0xFFF < start + len - 1 then some (max start 0x1000) else none

/-- `MemRead(addr, len)`, every address checked before any byte is read (R55, R62). The error is
the address of InvalidAddress. -/
def State.memRead (s : State) (addr len : Nat) : Except Nat (List Byte) :=
  match checkRange addr len with
  | some bad => .error bad
  | none => .ok ((List.range len).map fun k => Memory.read s.mem (addr + k))

/-- Replace the whole memory. -/
def State.setMem (s : State) (m : Memory) : State := { s with mem := m }

/-- `MemWrite` of consecutive bytes, every address checked before any byte is written (R56, R62). -/
def State.memWrite (s : State) (addr : Nat) (bytes : List Byte) : Except Nat State :=
  match checkRange addr bytes.length with
  | some bad => .error bad
  | none => .ok (s.setMem (Memory.writeBytes s.mem addr bytes))

/-- `FetchWord(a)`: the byte at the lower address is the high byte (R58, R59). -/
def State.fetchWord (s : State) (a : Word) : Except Nat Word :=
  match checkRange a.toNat 2 with
  | some bad => .error bad
  | none => .ok (joinBytes (Memory.read s.mem a.toNat) (Memory.read s.mem (a.toNat + 1)))

/-- `Load(bytes, offset)`, the host's memory primitive; `none` is OutOfBounds (R63). -/
def Memory.load (m : Memory) (bytes : List Byte) (offset : Nat) : Option Memory :=
  if memSize < offset + bytes.length then none else some (Memory.writeBytes m offset bytes)

/-! ### Registers, pc and stack -/

/-- `V[x]` (R21, R23). -/
def State.reg (s : State) (x : Nibble) : Byte := s.v[x.toNat]'x.isLt

/-- `V[x] <- b` (R21). -/
def State.setReg (s : State) (x : Nibble) (b : Byte) : State :=
  { s with v := s.v.set x.toNat b x.isLt }

/-- `V[k], V[k+1], … <- bytes`, in that order. -/
def State.setRegs : State → Nat → List Byte → State
  | s, _, [] => s
  | s, k, b :: bs => State.setRegs (s.setReg (BitVec.ofNat 4 k) b) (k + 1) bs

/-- The index of `VF` (R9). -/
def vf : Nibble := 0xF

/-- `I <- a` (R24). -/
def State.setI (s : State) (a : Word) : State := { s with i := a }

/-- `pc <- a` (R25). -/
def State.setPc (s : State) (a : Word) : State := { s with pc := a }

/-- The advance of the fetch, `pc <- (pc + 2) mod 2^16` (R103). -/
def State.advance (s : State) : State := s.setPc (s.pc + 2)

/-- A skip when `cond` holds: `pc <- (pc + 2) mod 2^16` once more (R9, R147). -/
def State.skipIf (s : State) (cond : Bool) : State := if cond then s.setPc (s.pc + 2) else s

/-- `STACK[SP] <- a; SP <- SP + 1`, or `none` when 16 entries are held (R141). -/
def State.push (s : State) (a : Word) : Option State :=
  if h : s.sp.val < 16 then
    some { s with stack := s.stack.set s.sp.val a h, sp := ⟨s.sp.val + 1, by omega⟩ }
  else none

/-- `SP <- SP - 1`, with the entry popped, or `none` when the stack is empty; the entry itself
keeps its value (R27, R140). -/
def State.pop (s : State) : Option (Word × State) :=
  if h : 0 < s.sp.val then
    some (s.stack[s.sp.val - 1]'(by omega), { s with sp := ⟨s.sp.val - 1, by omega⟩ })
  else none

/-- `DT <- b` (R186). -/
def State.setDt (s : State) (b : Byte) : State := { s with dt := b }

/-- `ST <- b` (R187). -/
def State.setSt (s : State) (b : Byte) : State := { s with st := b }

/-- `KEY(k)` as sampled for this step (R33, R180). -/
def State.key (s : State) (k : Nibble) : Bool := s.keys.getLsbD k.toNat

/-- One more byte has been drawn from the `rand` input (log entry 4). -/
def State.countDraw (s : State) : State := { s with randIx := s.randIx + 1 }

/-- `RAND()`: the next byte of the `rand` input, a free value (R239; log entry 4). -/
def State.draw (s : State) : Byte × State := (Config.rand s.randIx, s.countDraw)

/-! ### The display buffer -/

/-- `DISP[px][py]` (R31). -/
def Display.cell (d : Display) (px : Fin 64) (py : Fin 32) : Bool := d[px][py]

/-- `DISP[px][py] <- DISP[px][py] ^ 1` (R125). -/
def Display.flip (d : Display) (px : Fin 64) (py : Fin 32) : Display :=
  d.set px (d[px].set py (!d.cell px py))

/-- Replace the whole display buffer. -/
def State.setDisp (s : State) (d : Display) : State := { s with disp := d }

/-- Columns are taken modulo 64 (R31, R125). -/
def column (n : Nat) : Fin 64 := Fin.ofNat 64 n

/-- Rows are taken modulo 32 (R31, R125). -/
def row (n : Nat) : Fin 32 := Fin.ofNat 32 n

/-- One pixel of the loop of R125: flip the cell, and remember a cell that was 1 (R127). -/
def drawPixel (acc : Display × Bool) (px : Fin 64) (py : Fin 32) : Display × Bool :=
  (acc.1.flip px py, acc.2 || acc.1.cell px py)

/-- One row of the loop of R125: bit 7 is the leftmost column (R126). -/
def drawRow (xs ys : Nat) (bits : Byte) (acc : Display × Bool) : Display × Bool :=
  (List.range 8).foldl
    (fun acc c =>
      if bits.getLsbD (7 - c) then drawPixel acc (column (xs + c)) (row ys) else acc) acc

/-- The rows of a sprite from the top one, at column `xs` and row `ys` (R125). -/
def drawRows (xs : Nat) : Nat → List Byte → Display × Bool → Display × Bool
  | _, [], acc => acc
  | ys, bits :: rest, acc => drawRows xs (ys + 1) rest (drawRow xs ys bits acc)

/-! ### Ending a step -/

/-- What a committed step drives: the display is published (R108). -/
def Output.published : Output := { Output.silent with publish := true }

/-- What a step that ends in UnknownOpcode drives: the report and the publish (R106, R108). -/
def Output.unknownOpcode (a w : Word) : Output := { Output.published with report := some ⟨a, w⟩ }

/-- Set the strobed outputs of this transition. -/
def State.drive (s : State) (o : Output) : State := { s with out := o }

/-- Publish: expose the display buffer on `disp_out`, where it stays current until the next publish
(R108, R233, R243), and drive the outputs `o`. -/
def State.publish (s : State) (o : Output) : State := { s with dispOut := s.disp, out := o }

/-- Commit: every write stands, and the display is published (R107, R108). -/
def State.commit (s : State) : Result := .next (s.publish Output.published)

/-- UnknownOpcode: report the word `w` at `pc` and advance; nothing else changes (R106, R214). -/
def State.skipUnknown (s : State) (w : Word) : State :=
  s.advance.publish (Output.unknownOpcode s.pc w)

/-- TAKING A FAULT, on the state at the start of the step: the record is written with the address
in `pc`, `pc` stays at the instruction, nothing else changes and nothing is published (R109, R218). -/
def State.takeFault (s : State) (cause : Cause) (fword faddr : Word) : State :=
  { s with fault := ⟨cause, s.pc, fword, faddr⟩, out := Output.silent }

/-- `raise InvalidAddress(bad)` by instruction `i` on the state at the start of its step. -/
def State.raiseInvalidAddress (s : State) (i : Instr) (bad : Nat) : Result :=
  .next (s.takeFault .invalidAddress (encode i) (BitVec.ofNat 16 bad))

/-- `raise StackOverflow()` by instruction `i` (R141, R213). -/
def State.raiseStackOverflow (s : State) (i : Instr) : Result :=
  .next (s.takeFault .stackOverflow (encode i) 0)

/-- `raise StackUnderflow()` by instruction `i` (R140, R213). -/
def State.raiseStackUnderflow (s : State) (i : Instr) : Result :=
  .next (s.takeFault .stackUnderflow (encode i) 0)

/-! ### The codes of the conditions (R210, 92 D41) -/

/-- `FAULT.cause` as its 2-bit field (R35). -/
def Cause.code : Cause → BitVec 2
  | .none => 0
  | .invalidAddress => 1
  | .stackOverflow => 2
  | .stackUnderflow => 3

/-- The report code of UnknownOpcode (R210). -/
def Report.code : Report → Nat
  | _ => 4

/-- The code on `load_status` (R210, R232). -/
def LoadStatus.code : LoadStatus → Nat
  | .ok => 0
  | .outOfBounds _ => 5

/-! ### The timer, run control and the keypad input -/

/-- A countdown, floored at zero (R29, R225). -/
def countDown (b : Byte) : Byte := if b = 0 then 0 else b - 1

/-- `Tick(s)`, when `RUN = RUNNING`, faulted or not; otherwise no tick happens (R225 to R227). -/
def State.tick (s : State) : State :=
  match s.run with
  | .running =>
    { s with dt := countDown s.dt, st := countDown s.st,
             out := { Output.silent with audio := some (decide (s.st ≠ 0)) } }
  | .stopped => s.drive Output.silent

/-- `run()` (R230). -/
def State.start (s : State) : State := { s with run := .running, out := Output.silent }

/-- `stop()` (R230, R231). -/
def State.halt (s : State) : State := { s with run := .stopped, out := Output.silent }

/-- The keypad collaborator changes the `keys` input (R235). -/
def State.setKeys (s : State) (held : BitVec 16) : State :=
  { s with keys := held, out := Output.silent }

/-! ### Reset and ROM load -/

/-- `Reset()`: every item of the state tuple but `RUN` (R250); what is not of the tuple stays (log
entry 8). -/
def State.resetBlock (s : State) : State :=
  { s with
    mem := []
    v := Vector.replicate 16 0
    i := 0
    sp := 0
    stack := Vector.replicate 16 0
    dt := 0
    st := 0
    pc := 0x0200
    disp := Display.blank
    fault := FaultRecord.clear }

/-- `LoadRom(rom)`: the bounds check, then the reset, then the bytes from 0x200 (R253, R254). A load
is no step and publishes nothing, so `disp_out` stays (R108, R243); a refusal records the length
(R210). -/
def State.loadRom (s : State) (rom : List Byte) : State :=
  match Memory.load s.resetBlock.mem rom programBase with
  | none => s.drive { Output.silent with load := some (.outOfBounds rom.length) }
  | some m => (s.resetBlock.setMem m).drive { Output.silent with load := some .ok }

/-! ### Which event comes next -/

/-- The next event at the ports, and the state in which it has been taken: the oldest pending one,
or, when none is left, a free one (R228; log entry 2). -/
def State.nextEvent (s : State) : Event × State :=
  match s.pending with
  | e :: es => (e, { s with pending := es })
  | [] => (Config.freeEvent s.eventIx, { s with eventIx := s.eventIx + 1 })

end Sys2Proof.Machine
end

