-- ==== Sys2Proof/Machine/Operands.lean ====
section
/-!
DEFINITION. The operand forms beyond a plain register or immediate: the fields that R83 extends,
the operands that a quirk selects (92 D27 to D29), the low-nibble operands (R180, R189), the
register list of `FX55` and `FX65`, and the decimal digits of `FX33`.
-/

namespace Sys2Proof.Machine

/-- `zext_16(nnn)` (R83). -/
def addrWord (nnn : Addr) : Word := nnn.setWidth 16

/-- A register's value in 16-bit arithmetic (R8). -/
def byteWord (b : Byte) : Word := b.setWidth 16

/-- The low 4 bits of a register: a key number (R180) or a digit (R189). -/
def lowNibble (b : Byte) : Nibble := b.extractLsb' 0 4

/-- The source of a shift: `V[x]`, or `V[y]` when `QUIRK_SHIFT_SOURCE_VY` (R166). -/
def State.shiftSource (s : State) (x y : Nibble) : Byte :=
  if s.params.quirkShiftSourceVy then s.reg y else s.reg x

/-- The offset register of `BNNN`: V0, or `V[w[11:8]]` when `QUIRK_JUMP_VX` (R146). -/
def State.jumpRegister (s : State) (nnn : Addr) : Nibble :=
  if s.params.quirkJumpVx then nnn.extractLsb' 8 4 else 0

/-- `FONT_BASE + 5 * d`, the address of glyph `d` (R53, R189). -/
def glyphAddress (d : Nibble) : Word := BitVec.ofNat 16 (fontBase + 5 * d.toNat)

/-- The values of V0..V[x], the register list of `FX55` (R84, R191). -/
def State.regsTo (s : State) (x : Nibble) : List Byte :=
  (List.range (x.toNat + 1)).map fun k => s.reg (BitVec.ofNat 4 k)

/-- The hundreds, tens and ones digits of a byte (R190). -/
def decimalDigits (b : Byte) : List Byte :=
  [BitVec.ofNat 8 (b.toNat / 100), BitVec.ofNat 8 (b.toNat / 10 % 10), BitVec.ofNat 8 (b.toNat % 10)]

/-- The lowest-numbered held key, `min { k : KEY(k) == 1 }`; `none` when `KEYS == 0` (R183). -/
def lowestKey (keys : BitVec 16) : Option Nat := (List.range 16).find? fun k => keys.getLsbD k

/-- `if QUIRK_LOADSTORE_INC_I: I <- (I + x + 1) mod 2^16` (R191, R192). -/
def State.incrementI (s : State) (x : Nibble) : State :=
  if s.params.quirkLoadStoreIncI then s.setI (s.i + BitVec.ofNat 16 (x.toNat + 1)) else s

end Sys2Proof.Machine
end

