-- ==== Sys2Proof/Machine/Flags.lean ====
section
/-!
DEFINITION. The one flag, VF (spec/10_state.md R36): what each instruction that sets it computes,
on exact natural numbers (spec/43_ext_alu.md R170), and the order result first, flag last (R171).
-/

namespace Sys2Proof.Machine

/-- A flag as the byte written to VF. -/
def flagByte (b : Bool) : Byte := if b then 1 else 0

/-- Carry out of bit 7: the exact sum is above 255 (R164, R170). -/
def carryOut (a b : Byte) : Bool := decide (255 < a.toNat + b.toNat)

/-- No borrow: minuend ≥ subtrahend (R165, R167, R170). -/
def noBorrow (minuend subtrahend : Byte) : Bool := decide (subtrahend.toNat ≤ minuend.toNat)

/-- The bit a right shift by one moves out: bit 0 (R166). -/
def shiftedOutRight (b : Byte) : Bool := b.getLsbD 0

/-- The bit a left shift by one moves out: bit 7 (R168). -/
def shiftedOutLeft (b : Byte) : Bool := b.getLsbD 7

/-- Write a result to `V[x]`, then the flag to VF (R171): with `x = F` the flag wins. -/
def State.setResultFlag (s : State) (x : Nibble) (result : Byte) (flag : Bool) : State :=
  (s.setReg x result).setReg vf (flagByte flag)

/-- Write the result of OR, AND or XOR, and reset VF when `QUIRK_LOGIC_VF_RESET` (R161 to R163). -/
def State.setLogicResult (s : State) (x : Nibble) (result : Byte) : State :=
  if s.params.quirkLogicVfReset then (s.setReg x result).setReg vf 0 else s.setReg x result

end Sys2Proof.Machine
end

