-- ==== Sys2Proof/Machine/Documented.lean ====
section
/-!
DEFINITION. The documented instruction set (spec/41_documented.md). Every meaning takes the state
at the START of the step, with `pc` at the instruction, and begins with the advance of
spec/40_cycle.md R103 (log entry 6).
-/

namespace Sys2Proof.Machine

/-- `00E0` CLS (R120). -/
def execCls (s : State) : Result := (s.advance.setDisp Display.blank).commit

/-- `1NNN` JP addr (R121). -/
def execJp (nnn : Addr) (s : State) : Result := (s.advance.setPc (addrWord nnn)).commit

/-- `6XNN` LD Vx, byte (R122). -/
def execLdVxNn (x : Nibble) (nn : Byte) (s : State) : Result := (s.advance.setReg x nn).commit

/-- `7XNN` ADD Vx, byte: no flag (R123). -/
def execAddVxNn (x : Nibble) (nn : Byte) (s : State) : Result :=
  (s.advance.setReg x (s.reg x + nn)).commit

/-- `ANNN` LD I, addr (R124). -/
def execLdI (nnn : Addr) (s : State) : Result := (s.advance.setI (addrWord nnn)).commit

/-- `DXYN` DRW Vx, Vy, nibble (R125 to R128): the rows are read, and the coordinates with them,
before anything is written; VF takes the collision at the end. -/
def execDrw (x y n : Nibble) (s : State) : Result :=
  match s.memRead s.i.toNat n.toNat with
  | .error bad => s.raiseInvalidAddress (.drw x y n) bad
  | .ok rows =>
    let drawn := drawRows (s.reg x).toNat (s.reg y).toNat rows (s.disp, false)
    ((s.advance.setDisp drawn.1).setReg vf (flagByte drawn.2)).commit

end Sys2Proof.Machine
end

