-- ==== Sys2Proof/Machine/ExtAlu.lean ====
section
/-!
DEFINITION. Extended ALU (spec/43_ext_alu.md). Every meaning takes the state at the START of the
step (log entry 6); operands are read from it before anything is written (R171).
-/

namespace Sys2Proof.Machine

/-- `8XY0` LD Vx, Vy (R160). -/
def execLdVxVy (x y : Nibble) (s : State) : Result := (s.advance.setReg x (s.reg y)).commit

/-- `8XY1` OR Vx, Vy (R161). -/
def execOrVxVy (x y : Nibble) (s : State) : Result :=
  (s.advance.setLogicResult x (s.reg x ||| s.reg y)).commit

/-- `8XY2` AND Vx, Vy (R162). -/
def execAndVxVy (x y : Nibble) (s : State) : Result :=
  (s.advance.setLogicResult x (s.reg x &&& s.reg y)).commit

/-- `8XY3` XOR Vx, Vy (R163). -/
def execXorVxVy (x y : Nibble) (s : State) : Result :=
  (s.advance.setLogicResult x (s.reg x ^^^ s.reg y)).commit

/-- `8XY4` ADD Vx, Vy (R164). -/
def execAddVxVy (x y : Nibble) (s : State) : Result :=
  (s.advance.setResultFlag x (s.reg x + s.reg y) (carryOut (s.reg x) (s.reg y))).commit

/-- `8XY5` SUB Vx, Vy (R165). -/
def execSub (x y : Nibble) (s : State) : Result :=
  (s.advance.setResultFlag x (s.reg x - s.reg y) (noBorrow (s.reg x) (s.reg y))).commit

/-- `8XY6` SHR Vx, Vy (R166). -/
def execShr (x y : Nibble) (s : State) : Result :=
  (s.advance.setResultFlag x (s.shiftSource x y >>> 1)
    (shiftedOutRight (s.shiftSource x y))).commit

/-- `8XY7` SUBN Vx, Vy (R167). -/
def execSubn (x y : Nibble) (s : State) : Result :=
  (s.advance.setResultFlag x (s.reg y - s.reg x) (noBorrow (s.reg y) (s.reg x))).commit

/-- `8XYE` SHL Vx, Vy (R168). -/
def execShl (x y : Nibble) (s : State) : Result :=
  (s.advance.setResultFlag x (s.shiftSource x y <<< 1)
    (shiftedOutLeft (s.shiftSource x y))).commit

/-- `CXNN` RND Vx, byte: a free byte masked by `nn` (R169, R239; log entry 4). -/
def execRnd (x : Nibble) (nn : Byte) (s : State) : Result :=
  let (r, t) := s.advance.draw
  (t.setReg x (r &&& nn)).commit

end Sys2Proof.Machine
end

