-- ==== Sys2Proof/Machine/ExtControl.lean ====
section
/-!
DEFINITION. Extended control transfer (spec/42_ext_control.md). Every meaning takes the state at
the START of the step (log entry 6).
-/

namespace Sys2Proof.Machine

/-- `00EE` RET (R140). -/
def execRet (s : State) : Result :=
  match s.advance.pop with
  | none => s.raiseStackUnderflow .ret
  | some (target, t) => (t.setPc target).commit

/-- `2NNN` CALL addr: the pushed address is the one after the call (R141). -/
def execCall (nnn : Addr) (s : State) : Result :=
  match s.advance.push s.advance.pc with
  | none => s.raiseStackOverflow (.call nnn)
  | some t => (t.setPc (addrWord nnn)).commit

/-- `3XNN` SE Vx, byte (R142). -/
def execSeVxNn (x : Nibble) (nn : Byte) (s : State) : Result :=
  (s.advance.skipIf (s.reg x == nn)).commit

/-- `4XNN` SNE Vx, byte (R143). -/
def execSneVxNn (x : Nibble) (nn : Byte) (s : State) : Result :=
  (s.advance.skipIf (s.reg x != nn)).commit

/-- `5XY0` SE Vx, Vy (R144). -/
def execSeVxVy (x y : Nibble) (s : State) : Result :=
  (s.advance.skipIf (s.reg x == s.reg y)).commit

/-- `9XY0` SNE Vx, Vy (R145). -/
def execSneVxVy (x y : Nibble) (s : State) : Result :=
  (s.advance.skipIf (s.reg x != s.reg y)).commit

/-- `BNNN` JP V0, addr: the sum is not masked to 12 bits (R146). -/
def execJpV0 (nnn : Addr) (s : State) : Result :=
  (s.advance.setPc (addrWord nnn + byteWord (s.reg (s.jumpRegister nnn)))).commit

end Sys2Proof.Machine
end

