-- ==== Sys2Proof/Machine/ExtTimerKeyMemory.lean ====
section
/-!
DEFINITION. Extended key, timer, index and memory instructions
(spec/44_ext_timer_key_memory.md). Every meaning takes the state at the START of the step (log
entry 6).
-/

namespace Sys2Proof.Machine

/-- `EX9E` SKP Vx (R181). -/
def execSkp (x : Nibble) (s : State) : Result :=
  (s.advance.skipIf (s.key (lowNibble (s.reg x)))).commit

/-- `EXA1` SKNP Vx (R182). -/
def execSknp (x : Nibble) (s : State) : Result :=
  (s.advance.skipIf (!s.key (lowNibble (s.reg x)))).commit

/-- `FX07` LD Vx, DT (R184). -/
def execLdVxDt (x : Nibble) (s : State) : Result := (s.advance.setReg x s.dt).commit

/-- `FX0A` LD Vx, K: with no key held the step ends with `pc` back at the instruction, so that the
next step repeats it (R183). -/
def execLdVxK (x : Nibble) (s : State) : Result :=
  match lowestKey s.keys with
  | none => (s.advance.setPc (s.advance.pc - 2)).commit
  | some k => (s.advance.setReg x (BitVec.ofNat 8 k)).commit

/-- `FX15` LD DT, Vx (R186). -/
def execLdDtVx (x : Nibble) (s : State) : Result := (s.advance.setDt (s.reg x)).commit

/-- `FX18` LD ST, Vx (R187). -/
def execLdStVx (x : Nibble) (s : State) : Result := (s.advance.setSt (s.reg x)).commit

/-- `FX1E` ADD I, Vx (R188). -/
def execAddIVx (x : Nibble) (s : State) : Result :=
  (s.advance.setI (s.i + byteWord (s.reg x))).commit

/-- `FX29` LD F, Vx (R189). -/
def execLdFVx (x : Nibble) (s : State) : Result :=
  (s.advance.setI (glyphAddress (lowNibble (s.reg x)))).commit

/-- `FX33` LD B, Vx (R190). -/
def execLdBVx (x : Nibble) (s : State) : Result :=
  match s.advance.memWrite s.i.toNat (decimalDigits (s.reg x)) with
  | .error bad => s.raiseInvalidAddress (.ldBVx x) bad
  | .ok t => t.commit

/-- `FX55` LD [I], Vx (R191). -/
def execLdMemVx (x : Nibble) (s : State) : Result :=
  match s.advance.memWrite s.i.toNat (s.regsTo x) with
  | .error bad => s.raiseInvalidAddress (.ldMemVx x) bad
  | .ok t => (t.incrementI x).commit

/-- `FX65` LD Vx, [I] (R192). -/
def execLdVxMem (x : Nibble) (s : State) : Result :=
  match s.memRead s.i.toNat (x.toNat + 1) with
  | .error bad => s.raiseInvalidAddress (.ldVxMem x) bad
  | .ok bytes => ((s.advance.setRegs 0 bytes).incrementI x).commit

end Sys2Proof.Machine
end

