-- ==== Sys2Proof/Machine/Scheduler.lean ====
section
/-!
DEFINITION. One step of the engine (spec/40_cycle.md R100 to R112), one event at the ports
(spec/60_exceptions.md R228, R243), and the placing of an instruction where the engine fetches next.
-/

namespace Sys2Proof.Machine

/-- The engine's step is enabled (R100). -/
abbrev State.engineEnabled (s : State) : Prop := s.run = .running ∧ s.fault.cause = .none

/-- `Step(s)` of R112, and no change when it is not enabled (R100): fetch, then decode, then the
instruction's rule or the UnknownOpcode report. -/
def State.engineStep (s : State) : Result :=
  if s.engineEnabled then
    match s.fetchWord s.pc with
    | .error bad => .next (s.takeFault .invalidAddress 0 (BitVec.ofNat 16 bad))
    | .ok w =>
      match decodeWord s.params.opcodeSet w with
      | none => .next (s.skipUnknown w)
      | some i => exec i s
  else .next (s.drive Output.silent)

/-- What an event does: one whole step, one whole tick, or one host operation (R110, R217, R243). -/
def State.handle (s : State) : Event → Result
  | .step => s.engineStep
  | .tick => .next s.tick
  | .run => .next s.start
  | .stop => .next s.halt
  | .load rom => .next (s.loadRom rom)
  | .keys held => .next (s.setKeys held)

/-- Take the next event and do it. -/
def State.performNext (s : State) : Result := s.nextEvent.2.handle s.nextEvent.1

/-- `s` with the word `w` stored at `pc` and everything set that its execution by the very next
transition takes: a `pc` that can be fetched, the engine running and not faulted, the opcode set
that has every instruction, and a step strobe as the next event (log entry 9). -/
def State.placeWord (s : State) (w : Word) : State :=
  let pc : Word := if s.pc.toNat ≤ 0xFFE then s.pc else 0x0200
  { s with
    pc := pc
    mem := Memory.writeBytes s.mem pc.toNat (wordBytes w)
    run := .running
    fault := FaultRecord.clear
    params := { s.params with opcodeSet := .extended }
    pending := .step :: s.pending }

end Sys2Proof.Machine
end

