-- ==== Sys2Proof/Machine/Step.lean ====
section
/-!
DEFINITION. The step of the machine: one event at its ports (Machine/Scheduler.lean), and the
host's way to place an instruction.
-/

namespace Sys2Proof.Machine

/-- One transition: the next event, done whole (R110, R217, R228). -/
def step (s : State) : Host.Outcome State Fault Refusal := s.performNext

/-- `s` with the instruction whose bits are `w` stored where `step` fetches its next instruction,
so that the very next `step` runs it (log entry 9). -/
def State.withFetchWord (s : State) (nbits w : Nat) : State :=
  s.placeWord (BitVec.ofNat 16 (w % 2 ^ nbits))

end Sys2Proof.Machine
end

