-- ==== Sys2Proof/Safety.lean ====
section
/-!
DEFINITION. The terms in which claims are made: what a step leaves alone, how an instruction ends,
the invariants, runs and their fairness (spec/60_exceptions.md R228), and the ends of a run
(spec/70_reset_and_hazards.md R267).
-/

namespace Sys2Proof.Machine

/-! ### What stays the same -/

/-- Every general register holds what it held. -/
def sameRegs (s t : State) : Prop := ∀ x, t.reg x = s.reg x

/-- The call stack is as it was: its depth and every entry. -/
def sameStack (s t : State) : Prop := t.sp = s.sp ∧ t.stack = s.stack

/-- Both timers are as they were. -/
def sameTimers (s t : State) : Prop := t.dt = s.dt ∧ t.st = s.st

/-- Every address reads as it read. -/
def sameMemory (s t : State) : Prop := ∀ a, Memory.read t.mem a = Memory.read s.mem a

/-- Every display cell is as it was. -/
def sameDisplay (s t : State) : Prop := ∀ px py, t.disp.cell px py = s.disp.cell px py

/-- What no instruction touches: the run condition, the parameters, and the inputs that wait. -/
def sameHost (s t : State) : Prop :=
  t.run = s.run ∧ t.params = s.params ∧ t.keys = s.keys ∧ t.pending = s.pending ∧
    t.eventIx = s.eventIx

/-- The parts of the state that an instruction may write besides `pc`. -/
inductive Part where
  | regs
  | index
  | stack
  | timers
  | memory
  | display
  | draws
  deriving DecidableEq, Repr

/-- A committed instruction changed nothing but `pc`, the outputs (it published its display on
`disp_out`, R108, R243) and the parts listed. -/
def Frame (writes : List Part) (s t : State) : Prop :=
  (.regs ∉ writes → sameRegs s t) ∧ (.index ∉ writes → t.i = s.i) ∧
    (.stack ∉ writes → sameStack s t) ∧ (.timers ∉ writes → sameTimers s t) ∧
    (.memory ∉ writes → sameMemory s t) ∧ (.display ∉ writes → sameDisplay s t) ∧
    (.draws ∉ writes → t.randIx = s.randIx) ∧ sameHost s t ∧ t.fault = s.fault ∧
    t.out = Output.published ∧ t.dispOut = t.disp

/-- The parts that the rule of an instruction writes. -/
def writesOf : Instr → List Part
  | .cls => [.display]
  | .ret => [.stack]
  | .jp _ => []
  | .call _ => [.stack]
  | .seVxNn _ _ => []
  | .sneVxNn _ _ => []
  | .seVxVy _ _ => []
  | .ldVxNn _ _ => [.regs]
  | .addVxNn _ _ => [.regs]
  | .ldVxVy _ _ => [.regs]
  | .orVxVy _ _ => [.regs]
  | .andVxVy _ _ => [.regs]
  | .xorVxVy _ _ => [.regs]
  | .addVxVy _ _ => [.regs]
  | .sub _ _ => [.regs]
  | .shr _ _ => [.regs]
  | .subn _ _ => [.regs]
  | .shl _ _ => [.regs]
  | .sneVxVy _ _ => []
  | .ldI _ => [.index]
  | .jpV0 _ => []
  | .rnd _ _ => [.regs, .draws]
  | .drw _ _ _ => [.regs, .display]
  | .skp _ => []
  | .sknp _ => []
  | .ldVxDt _ => [.regs]
  | .ldVxK _ => [.regs]
  | .ldDtVx _ => [.timers]
  | .ldStVx _ => [.timers]
  | .addIVx _ => [.index]
  | .ldFVx _ => [.index]
  | .ldBVx _ => [.memory]
  | .ldMemVx _ => [.memory, .index]
  | .ldVxMem _ => [.regs, .index]

/-- The general registers that an instruction may write, the table of R22. -/
def writesReg (p : Params) : Instr → Nibble → Bool
  | .ldVxNn x _, r => r == x
  | .addVxNn x _, r => r == x
  | .drw _ _ _, r => r == vf
  | .ldVxVy x _, r => r == x
  | .orVxVy x _, r => r == x || (p.quirkLogicVfReset && r == vf)
  | .andVxVy x _, r => r == x || (p.quirkLogicVfReset && r == vf)
  | .xorVxVy x _, r => r == x || (p.quirkLogicVfReset && r == vf)
  | .addVxVy x _, r => r == x || r == vf
  | .sub x _, r => r == x || r == vf
  | .shr x _, r => r == x || r == vf
  | .subn x _, r => r == x || r == vf
  | .shl x _, r => r == x || r == vf
  | .rnd x _, r => r == x
  | .ldVxDt x, r => r == x
  | .ldVxK x, r => r == x
  | .ldVxMem x, r => decide (r.toNat ≤ x.toNat)
  | .cls, _ => false
  | .ret, _ => false
  | .jp _, _ => false
  | .call _, _ => false
  | .seVxNn _ _, _ => false
  | .sneVxNn _ _, _ => false
  | .seVxVy _ _, _ => false
  | .sneVxVy _ _, _ => false
  | .ldI _, _ => false
  | .jpV0 _, _ => false
  | .skp _, _ => false
  | .sknp _, _ => false
  | .ldDtVx _, _ => false
  | .ldStVx _, _ => false
  | .addIVx _, _ => false
  | .ldFVx _, _ => false
  | .ldBVx _, _ => false
  | .ldMemVx _, _ => false

/-- `pc` after an instruction commits on `s`, the table of R25 with the conditions of the rules it
names. `00EE` commits on a stack that is not empty only. -/
def pcAfter (s : State) : Instr → Word
  | .jp nnn => BitVec.ofNat 16 nnn.toNat
  | .call nnn => BitVec.ofNat 16 nnn.toNat
  | .ret => if h : 0 < s.sp.val then s.stack[s.sp.val - 1]'(by omega) else s.pc
  | .jpV0 nnn => BitVec.ofNat 16 (nnn.toNat + (s.reg (if s.params.quirkJumpVx
      then BitVec.ofNat 4 (nnn.toNat / 256) else 0)).toNat)
  | .seVxNn x nn => if s.reg x = nn then s.pc + 4 else s.pc + 2
  | .sneVxNn x nn => if s.reg x = nn then s.pc + 2 else s.pc + 4
  | .seVxVy x y => if s.reg x = s.reg y then s.pc + 4 else s.pc + 2
  | .sneVxVy x y => if s.reg x = s.reg y then s.pc + 2 else s.pc + 4
  | .skp x => if s.keys.getLsbD ((s.reg x).toNat % 16) then s.pc + 4 else s.pc + 2
  | .sknp x => if s.keys.getLsbD ((s.reg x).toNat % 16) then s.pc + 2 else s.pc + 4
  | .ldVxK _ => if s.keys = 0 then s.pc else s.pc + 2
  | .cls => s.pc + 2
  | .ldVxNn _ _ => s.pc + 2
  | .addVxNn _ _ => s.pc + 2
  | .ldVxVy _ _ => s.pc + 2
  | .orVxVy _ _ => s.pc + 2
  | .andVxVy _ _ => s.pc + 2
  | .xorVxVy _ _ => s.pc + 2
  | .addVxVy _ _ => s.pc + 2
  | .sub _ _ => s.pc + 2
  | .shr _ _ => s.pc + 2
  | .subn _ _ => s.pc + 2
  | .shl _ _ => s.pc + 2
  | .ldI _ => s.pc + 2
  | .rnd _ _ => s.pc + 2
  | .drw _ _ _ => s.pc + 2
  | .ldVxDt _ => s.pc + 2
  | .ldDtVx _ => s.pc + 2
  | .ldStVx _ => s.pc + 2
  | .addIVx _ => s.pc + 2
  | .ldFVx _ => s.pc + 2
  | .ldBVx _ => s.pc + 2
  | .ldMemVx _ => s.pc + 2
  | .ldVxMem _ => s.pc + 2

/-! ### How an instruction ends -/

/-- Instruction `i` on `s` answers a next state, and that state has the property. -/
def Completes (i : Instr) (s : State) (property : State → Prop) : Prop :=
  ∃ t, exec i s = .next t ∧ property t

/-- The state after a fault: the record written, `pc` still at the instruction, nothing published,
and every other field as it was at the start of the step (R109, R218). -/
def faulted (s : State) (cause : Cause) (fword faddr : Word) : State :=
  { s with fault := ⟨cause, s.pc, fword, faddr⟩, out := Output.silent }

/-- Instruction `i` on `s` takes the fault `cause` with the bad address `faddr`. -/
def FaultsWith (i : Instr) (s : State) (cause : Cause) (faddr : Word) : Prop :=
  exec i s = .next (faulted s cause (encode i) faddr)

/-- The one cause that an instruction can raise, or `none` (R216). -/
def causeOf : Instr → Cause
  | .ret => .stackUnderflow
  | .call _ => .stackOverflow
  | .drw _ _ _ => .invalidAddress
  | .ldBVx _ => .invalidAddress
  | .ldMemVx _ => .invalidAddress
  | .ldVxMem _ => .invalidAddress
  | .cls => .none
  | .jp _ => .none
  | .seVxNn _ _ => .none
  | .sneVxNn _ _ => .none
  | .seVxVy _ _ => .none
  | .ldVxNn _ _ => .none
  | .addVxNn _ _ => .none
  | .ldVxVy _ _ => .none
  | .orVxVy _ _ => .none
  | .andVxVy _ _ => .none
  | .xorVxVy _ _ => .none
  | .addVxVy _ _ => .none
  | .sub _ _ => .none
  | .shr _ _ => .none
  | .subn _ _ => .none
  | .shl _ _ => .none
  | .sneVxVy _ _ => .none
  | .ldI _ => .none
  | .jpV0 _ => .none
  | .rnd _ _ => .none
  | .skp _ => .none
  | .sknp _ => .none
  | .ldVxDt _ => .none
  | .ldVxK _ => .none
  | .ldDtVx _ => .none
  | .ldStVx _ => .none
  | .addIVx _ => .none
  | .ldFVx _ => .none

/-- The word `w` is instruction `i` under `EXTENDED`, and under `DOCUMENTED` exactly when the
instruction's profile says so. -/
def EncodedAs (i : Instr) (w : Word) (documented : Bool) : Prop :=
  decodeWord .extended w = some i ∧
    decodeWord .documented w = if documented then some i else none

/-- The sprite that `DXYN` draws on `s` has a 1 at the cell: some row `r` and column `c` of it have
that bit set and fall on the cell, both coordinates wrapped (R125, R126). -/
def SpriteCovers (s : State) (x y n : Nibble) (px : Fin 64) (py : Fin 32) : Prop :=
  ∃ r c : Nat, r < n.toNat ∧ c < 8 ∧
    (Memory.read s.mem (s.i.toNat + r)).getLsbD (7 - c) = true ∧
    px.val = ((s.reg x).toNat + c) % 64 ∧ py.val = ((s.reg y).toNat + r) % 32

/-! ### Invariants -/

/-- Memory keeps its canonical form, within the address space. -/
def MemoryCanonical (s : State) : Prop := Memory.wf s.mem

/-- `pc` stays at or below 0x10FE and every stack entry at or below 0x1000 (R26, R140). -/
def AddressesBounded (s : State) : Prop :=
  s.pc.toNat ≤ 0x10FE ∧ ∀ k : Fin 16, (s.stack[k]).toNat ≤ 0x1000

/-- The fault record says what happened: with no fault all of it is 0; with one, it names the
instruction at `pc`, and its other fields and the stack depth fit the cause (R35, R109, R213). -/
def FaultConsistent (s : State) : Prop :=
  match s.fault.cause with
  | .none => s.fault = FaultRecord.clear
  | .invalidAddress => s.fault.fpc = s.pc ∧ 0x1000 ≤ s.fault.faddr.toNat
  | .stackOverflow =>
    s.fault.fpc = s.pc ∧ s.fault.faddr = 0 ∧ s.sp.val = 16 ∧ fieldOp s.fault.fword = 0x2
  | .stackUnderflow =>
    s.fault.fpc = s.pc ∧ s.fault.faddr = 0 ∧ s.sp.val = 0 ∧ s.fault.fword = 0x00EE

/-! ### Runs -/

/-- A machine at creation, whatever its parameters, its keypad and the events that wait. -/
def State.created (p : Params) (held : BitVec 16) (events : List Event) : State :=
  { State.reset with params := p, keys := held, pending := events }

/-- `r` is a run: each state steps to the next. -/
def IsRun (r : Nat → State) : Prop := ∀ n, step (r n) = .next (r (n + 1))

/-- Weak fairness to both agents (R228, log entry 10): an engine step that stays enabled is taken,
and so is a tick while `RUN` stays RUNNING. -/
def WeaklyFair (r : Nat → State) : Prop :=
  ∀ n, ((∀ m, n ≤ m → (r m).engineEnabled) → ∃ m, n ≤ m ∧ (r m).nextEvent.1 = .step) ∧
    ((∀ m, n ≤ m → (r m).run = .running) → ∃ m, n ≤ m ∧ (r m).nextEvent.1 = .tick)

/-- No transition of the run up to its `n`-th state reported an UnknownOpcode: a claim about the
report stream (R214). -/
def NoUnknownOpcode (r : Nat → State) (n : Nat) : Prop := ∀ m, m ≤ n → (r m).out.report = none

/-- End (a) of R267: FAULTED, a bad end. -/
def EndFaulted (s : State) : Prop := s.fault.cause ≠ .none

/-- End (b) of R267: PARKED, the next instruction is `1NNN` jumping to itself. -/
def EndParked (s : State) : Prop :=
  s.pc.toNat ≤ 0xFFE ∧ s.fetchWord s.pc = .ok (0x1000 ||| s.pc)

/-- End (c) of R267: STOPPED after `run()` had been called, in the `n`-th state of a run. -/
def EndStopped (r : Nat → State) (n : Nat) : Prop :=
  (r n).run = .stopped ∧ ∃ m, m < n ∧ (r m).run = .running

/-- The run has come to an end of R267 in its `n`-th state. -/
def AtEnd (r : Nat → State) (n : Nat) : Prop :=
  EndFaulted (r n) ∨ EndParked (r n) ∨ EndStopped r n

end Sys2Proof.Machine
end

