-- ==== Sys2Proof/Certificates/Slice0/Obligations.lean ====
section
/-!
DEFINITION. The statements for the provers, from the numbered rules of spec/. An instruction's
statement gives its words and its profile, its completion with every register, `pc` and the frame,
and the fault that its rule names. `exec` takes the state at the start of the step (log entry 6).
-/

open Sys2Proof Sys2Proof.Machine

/-! ### Encoding (spec/30_encoding.md) -/

/-- R80 to R85: the decoder reads an encoded instruction of the set back, with every operand at
every value, and leaves the bytes after it. -/
def Obligations.DecodeReadsBackEncodedInstruction : Prop :=
  ∀ (set : OpcodeSet) (i : Instr) (rest : List Byte), i.wf set = true →
    decode set (encodeBytes i ++ rest) = .ok (i, rest)

/-- R87: a word has one meaning. What it decodes to is an instruction of the set and encodes back to
that word, so no bit of a word is ignored. -/
def Obligations.DecodedInstructionEncodesToItsWord : Prop :=
  ∀ (set : OpcodeSet) (w : Word) (i : Instr), decodeWord set w = some i →
    i.wf set = true ∧ encode i = w

/-- R85, R86, R88: a word decodes to an instruction exactly when it fits a row of the opcode table
whose profile has the set; every other word is Unknown. -/
def Obligations.WordDecodesExactlyWhenATableRowFits : Prop :=
  ∀ (set : OpcodeSet) (w : Word), (decodeWord set w).isSome = true ↔
    ∃ r ∈ opcodeRows, r.isIn set = true ∧ r.fits w = true

/-- R87: no word fits two rows of the opcode table. -/
def Obligations.OpcodeTableRowsArePairwiseDisjoint : Prop :=
  opcodeRows.Pairwise fun r q => ∀ w : Word, ¬ (r.fits w = true ∧ q.fits w = true)

/-- R87: every word that decodes under DOCUMENTED decodes to the same instruction under EXTENDED. -/
def Obligations.DocumentedWordsKeepTheirInstruction : Prop :=
  ∀ (w : Word) (i : Instr), decodeWord .documented w = some i → decodeWord .extended w = some i

/-- Words written out from R82 and R90, one of each format, and four words that are Unknown. -/
def Obligations.SampleWordsDecode : Prop :=
  decodeWord .documented 0x00E0 = some .cls ∧ decodeWord .extended 0x00EE = some .ret ∧
    decodeWord .documented 0x1234 = some (.jp 0x234) ∧
    decodeWord .extended 0xB3FF = some (.jpV0 0x3FF) ∧
    decodeWord .documented 0x6A42 = some (.ldVxNn 0xA 0x42) ∧
    decodeWord .documented 0xD125 = some (.drw 0x1 0x2 0x5) ∧
    decodeWord .extended 0x8F1E = some (.shl 0xF 0x1) ∧
    decodeWord .extended 0xF365 = some (.ldVxMem 0x3) ∧
    decodeWord .extended 0x0000 = none ∧ decodeWord .documented 0x00EE = none ∧
    decodeWord .extended 0x5121 = none ∧ decodeWord .extended 0x8018 = none

/-! ### The step cycle (spec/40_cycle.md) -/

/-- R100 to R105, R112: with a step strobe next, the engine running and not faulted, and bytes at
`pc` that decode to `i`, the step is `exec i` on the state from which only the strobe was taken. -/
def Obligations.StepRunsTheDecodedInstruction : Prop :=
  ∀ (s s' : State) (i : Instr), s.nextEvent = (.step, s') → s.run = .running →
    s.fault.cause = .none → s.pc.toNat ≤ 0xFFE →
    decodeWord s.params.opcodeSet
      (joinBytes (Memory.read s.mem s.pc.toNat) (Memory.read s.mem (s.pc.toNat + 1))) = some i →
    step s = exec i s' ∧ s' = { s with pending := s'.pending, eventIx := s'.eventIx }

/-- R106: a word that decodes to Unknown is reported with its address, `pc` advances by 2, the
display is published on `disp_out`, and nothing else changes. -/
def Obligations.StepReportsAndSkipsUnknownOpcode : Prop :=
  ∀ (s s' : State) (w : Word), s.nextEvent = (.step, s') → s.run = .running →
    s.fault.cause = .none → s.pc.toNat ≤ 0xFFE →
    w = joinBytes (Memory.read s.mem s.pc.toNat) (Memory.read s.mem (s.pc.toNat + 1)) →
    decodeWord s.params.opcodeSet w = none →
    step s = .next { s' with
      pc := s.pc + 2, dispOut := s.disp, out := ⟨true, some ⟨s.pc, w⟩, none, none⟩ }

/-- R102: a fetch at a `pc` above 0xFFE faults with the word 0 and the first out-of-range address;
`pc` and everything else stay. -/
def Obligations.FetchPastMemoryFaults : Prop :=
  ∀ (s s' : State), s.nextEvent = (.step, s') → s.run = .running → s.fault.cause = .none →
    0xFFE < s.pc.toNat →
    step s = .next (faulted s' .invalidAddress 0x0000 (BitVec.ofNat 16 (max s.pc.toNat 0x1000)))

/-- R100: a step strobe while stopped or faulted changes nothing and drives nothing. -/
def Obligations.StepStrobeIsIgnoredWhenNotEnabled : Prop :=
  ∀ (s s' : State), s.nextEvent = (.step, s') → s.run = .stopped ∨ s.fault.cause ≠ .none →
    step s = .next { s' with out := Output.silent }

/-- R217, R228: any event at all can come next, so every interleaving is among the machine's; and
once the pending ones are used up nothing is known of the next (log entry 2 is the model's form). -/
def Obligations.AnyEventCanComeNext : Prop :=
  ∀ (s : State) (e : Event) (es : List Event),
    step { s with pending := e :: es } = State.handle { s with pending := es } e ∧
    step { s with pending := [] } =
      State.handle { s with pending := [], eventIx := s.eventIx + 1 } (Config.freeEvent s.eventIx)

/-- R111: every transition from every state answers a next state; nothing blocks or stops. -/
def Obligations.EveryStepAnswersANextState : Prop := ∀ s : State, ∃ t, step s = .next t

/-! ### Ticks, run control, keypad, load and reset (spec/60_exceptions.md, spec/70_reset_and_hazards.md) -/

/-- R225 to R227: a tick while RUNNING, faulted or not, lowers each nonzero timer by 1, drives the
audio level "ST was nonzero", and changes nothing else. While STOPPED no tick happens: that a tick
strobe is then a transition which changes and drives nothing is log entry 11 (the model's form). -/
def Obligations.TickCountsBothTimersDown : Prop :=
  ∀ (s s' : State), s.nextEvent = (.tick, s') →
    (s.run = .running → ∃ t, step s = .next t ∧ t.dt.toNat = s.dt.toNat - 1 ∧
      t.st.toNat = s.st.toNat - 1 ∧ t.out = ⟨false, none, some (decide (0 < s.st.toNat)), none⟩ ∧
      t = { s' with dt := t.dt, st := t.st, out := t.out }) ∧
    (s.run = .stopped → step s = .next { s' with out := Output.silent })

/-- R230: `run()` and `stop()` set RUN and change nothing else. -/
def Obligations.RunAndStopChangeRunAlone : Prop :=
  ∀ (s s' : State),
    (s.nextEvent = (.run, s') → step s = .next { s' with run := .running, out := Output.silent }) ∧
    (s.nextEvent = (.stop, s') → step s = .next { s' with run := .stopped, out := Output.silent })

/-- R235: the keypad changes the `keys` input between steps, and nothing else changes. -/
def Obligations.KeypadChangesKeysAlone : Prop :=
  ∀ (s s' : State) (held : BitVec 16), s.nextEvent = (.keys held, s') →
    step s = .next { s' with keys := held, out := Output.silent }

/-- R250, R253, R254: a ROM that fits resets every item but RUN and stands from 0x200, the font
below it; one that does not fit is refused with its length (R210) and changes nothing. That a load
keeps the parameters, the keys, the events that wait and the two counters is log entry 8 (the
model's form); that it leaves `disp_out` as it was is log entry 5's reading of R243. -/
def Obligations.RomLoadResetsAndPlacesOrRefuses : Prop :=
  ∀ (s s' : State) (rom : List Byte), s.nextEvent = (.load rom, s') →
    (0x200 + rom.length ≤ 4096 → ∃ t, step s = .next t ∧
      t.out = ⟨false, none, none, some .ok⟩ ∧
      (∀ a, Memory.read t.mem a =
        if 0x200 ≤ a ∧ a < 0x200 + rom.length then rom.getD (a - 0x200) 0
        else if 0x050 ≤ a ∧ a < 0x0A0 then fontBytes.getD (a - 0x050) 0 else 0) ∧
      (∀ r, t.reg r = 0) ∧ t.i = 0 ∧ t.pc = 0x0200 ∧ t.sp.val = 0 ∧
      (∀ k : Fin 16, t.stack[k] = 0) ∧ t.dt = 0 ∧ t.st = 0 ∧
      (∀ px py, t.disp.cell px py = false) ∧ t.fault = ⟨.none, 0, 0, 0⟩ ∧ t.run = s.run ∧
      t.params = s.params ∧ t.keys = s.keys ∧ t.pending = s'.pending ∧ t.eventIx = s'.eventIx ∧
      t.randIx = s.randIx ∧ t.dispOut = s.dispOut) ∧
    (4096 < 0x200 + rom.length →
      step s = .next { s' with out := ⟨false, none, none, some (.outOfBounds rom.length)⟩ })

/-- R20, R250, R251 (a): the spec's reset values, and the font of R53 (glyph 0 written out) in a
memory that holds nothing else. The model's own fields are not in it. -/
def Obligations.ResetLeavesTheSpecValues : Prop :=
  let s := State.reset
  (∀ r, s.reg r = 0) ∧ s.i = 0 ∧ s.pc = 0x0200 ∧ s.sp.val = 0 ∧ (∀ k : Fin 16, s.stack[k] = 0) ∧
    s.dt = 0 ∧ s.st = 0 ∧ (∀ px py, s.disp.cell px py = false) ∧ s.run = .stopped ∧
    s.fault = ⟨.none, 0, 0, 0⟩ ∧
    (∀ a, ¬ (0x050 ≤ a ∧ a < 0x0A0) → Memory.read s.mem a = 0) ∧
    s.memRead 0x050 5 = .ok [0xF0, 0x90, 0x90, 0x90, 0xF0]

/-! ### The documented instructions (spec/41_documented.md) -/

/-- R120. -/
def Obligations.ClearBlanksTheDisplay : Prop :=
  ∀ s : State, EncodedAs .cls 0x00E0 true ∧ Completes .cls s fun t =>
    (∀ px py, t.disp.cell px py = false) ∧ t.pc = s.pc + 2 ∧ Frame [.display] s t

/-- R121. -/
def Obligations.JumpGoesToItsTarget : Prop :=
  ∀ (nnn : Addr) (s : State), EncodedAs (.jp nnn) (joinA 0x1 nnn) true ∧
    Completes (.jp nnn) s fun t => t.pc.toNat = nnn.toNat ∧ Frame [] s t

/-- R122, with VF an ordinary destination. -/
def Obligations.LoadImmediateWritesOneRegister : Prop :=
  ∀ (x : Nibble) (nn : Byte) (s : State), EncodedAs (.ldVxNn x nn) (joinRB 0x6 x nn) true ∧
    Completes (.ldVxNn x nn) s fun t =>
      (∀ r, t.reg r = if r = x then nn else s.reg r) ∧ t.pc = s.pc + 2 ∧ Frame [.regs] s t

/-- R123: the sum modulo 256 and no flag. -/
def Obligations.AddImmediateWrapsAndSetsNoFlag : Prop :=
  ∀ (x : Nibble) (nn : Byte) (s : State), EncodedAs (.addVxNn x nn) (joinRB 0x7 x nn) true ∧
    Completes (.addVxNn x nn) s fun t =>
      (∀ r, (t.reg r).toNat = if r = x then ((s.reg x).toNat + nn.toNat) % 256 else (s.reg r).toNat) ∧
      t.pc = s.pc + 2 ∧ Frame [.regs] s t

/-- R124. -/
def Obligations.LoadIndexSetsI : Prop :=
  ∀ (nnn : Addr) (s : State), EncodedAs (.ldI nnn) (joinA 0xA nnn) true ∧
    Completes (.ldI nnn) s fun t => t.i.toNat = nnn.toNat ∧ t.pc = s.pc + 2 ∧ Frame [.index] s t

/-- R125, R126: with every row inside memory, each cell under a 1 of the sprite is flipped and every
other cell stays, VF is 1 exactly when a flipped cell was 1, and the coordinates are the registers'
values before the instruction, VF included; with a row past 0xFFF the step faults. -/
def Obligations.DrawFlipsCoveredCellsOrFaults : Prop :=
  ∀ (x y n : Nibble) (s : State), EncodedAs (.drw x y n) (joinRRN 0xD x y n) true ∧
    (n.toNat = 0 ∨ s.i.toNat + n.toNat - 1 ≤ 0xFFF →
      Completes (.drw x y n) s fun t =>
        (∀ px py, SpriteCovers s x y n px py → t.disp.cell px py = !s.disp.cell px py) ∧
        (∀ px py, ¬ SpriteCovers s x y n px py → t.disp.cell px py = s.disp.cell px py) ∧
        ((∃ px py, SpriteCovers s x y n px py ∧ s.disp.cell px py = true) → t.reg vf = 1) ∧
        ((¬ ∃ px py, SpriteCovers s x y n px py ∧ s.disp.cell px py = true) → t.reg vf = 0) ∧
        (∀ r, r ≠ vf → t.reg r = s.reg r) ∧ t.pc = s.pc + 2 ∧ Frame [.regs, .display] s t) ∧
    (0 < n.toNat → 0xFFF < s.i.toNat + n.toNat - 1 →
      FaultsWith (.drw x y n) s .invalidAddress (BitVec.ofNat 16 (max s.i.toNat 0x1000)))

/-! ### Extended control transfer (spec/42_ext_control.md) -/

/-- R140: the top entry becomes `pc`, the depth falls by 1 and no entry changes; on an empty stack
the step faults. -/
def Obligations.ReturnPopsOrUnderflows : Prop :=
  ∀ s : State, EncodedAs .ret 0x00EE false ∧
    (∀ k : Fin 16, s.sp.val = k.val + 1 → Completes .ret s fun t =>
      t.pc = s.stack[k] ∧ t.sp.val = k.val ∧ t.stack = s.stack ∧ Frame [.stack] s t) ∧
    (s.sp.val = 0 → FaultsWith .ret s .stackUnderflow 0x0000)

/-- R141: the address after the call is pushed at the old depth and `pc` takes the target; with 16
entries held the step faults. -/
def Obligations.CallPushesOrOverflows : Prop :=
  ∀ (nnn : Addr) (s : State), EncodedAs (.call nnn) (joinA 0x2 nnn) false ∧
    (∀ k : Fin 16, s.sp.val = k.val → Completes (.call nnn) s fun t =>
      t.pc.toNat = nnn.toNat ∧ t.sp.val = k.val + 1 ∧ t.stack[k] = s.pc + 2 ∧
      (∀ j : Fin 16, j ≠ k → t.stack[j] = s.stack[j]) ∧ Frame [.stack] s t) ∧
    (s.sp.val = 16 → FaultsWith (.call nnn) s .stackOverflow 0x0000)

/-- R142, R143. -/
def Obligations.SkipsOnAnImmediate : Prop :=
  ∀ (x : Nibble) (nn : Byte) (s : State),
    EncodedAs (.seVxNn x nn) (joinRB 0x3 x nn) false ∧
    EncodedAs (.sneVxNn x nn) (joinRB 0x4 x nn) false ∧
    (Completes (.seVxNn x nn) s fun t =>
      t.pc = (if s.reg x = nn then s.pc + 4 else s.pc + 2) ∧ Frame [] s t) ∧
    (Completes (.sneVxNn x nn) s fun t =>
      t.pc = (if s.reg x = nn then s.pc + 2 else s.pc + 4) ∧ Frame [] s t)

/-- R144, R145. -/
def Obligations.SkipsOnTwoRegisters : Prop :=
  ∀ (x y : Nibble) (s : State),
    EncodedAs (.seVxVy x y) (joinRRN 0x5 x y 0x0) false ∧
    EncodedAs (.sneVxVy x y) (joinRRN 0x9 x y 0x0) false ∧
    (Completes (.seVxVy x y) s fun t =>
      t.pc = (if s.reg x = s.reg y then s.pc + 4 else s.pc + 2) ∧ Frame [] s t) ∧
    (Completes (.sneVxVy x y) s fun t =>
      t.pc = (if s.reg x = s.reg y then s.pc + 2 else s.pc + 4) ∧ Frame [] s t)

/-- R146: the target plus V0, or plus the register that bits 11..8 name under the quirk. -/
def Obligations.JumpV0AddsTheOffsetRegister : Prop :=
  ∀ (nnn : Addr) (s : State), EncodedAs (.jpV0 nnn) (joinA 0xB nnn) false ∧
    Completes (.jpV0 nnn) s fun t =>
      t.pc.toNat = nnn.toNat + (s.reg (if s.params.quirkJumpVx = true
        then BitVec.ofNat 4 (nnn.toNat / 256) else 0)).toNat ∧ Frame [] s t

/-- R140, R141: a return right after a call takes `pc` to the address after the call and the stack
back to its depth. -/
def Obligations.ReturnAfterCallComesBack : Prop :=
  ∀ (nnn : Addr) (s : State), s.sp.val < 16 → Completes (.call nnn) s fun t =>
    Completes .ret t fun u => u.pc = s.pc + 2 ∧ u.sp = s.sp

/-! ### Extended ALU (spec/43_ext_alu.md) -/

/-- R160. -/
def Obligations.CopyRegister : Prop :=
  ∀ (x y : Nibble) (s : State), EncodedAs (.ldVxVy x y) (joinRRN 0x8 x y 0x0) false ∧
    Completes (.ldVxVy x y) s fun t =>
      (∀ r, t.reg r = if r = x then s.reg y else s.reg r) ∧ t.pc = s.pc + 2 ∧ Frame [.regs] s t

/-- R161 to R163: the bitwise result, and VF reset at the end under the quirk only. -/
def Obligations.BitwiseOperations : Prop :=
  ∀ (x y : Nibble) (s : State),
    EncodedAs (.orVxVy x y) (joinRRN 0x8 x y 0x1) false ∧
    EncodedAs (.andVxVy x y) (joinRRN 0x8 x y 0x2) false ∧
    EncodedAs (.xorVxVy x y) (joinRRN 0x8 x y 0x3) false ∧
    (Completes (.orVxVy x y) s fun t =>
      (∀ r, t.reg r = if s.params.quirkLogicVfReset = true ∧ r = vf then 0
        else if r = x then s.reg x ||| s.reg y else s.reg r) ∧
      t.pc = s.pc + 2 ∧ Frame [.regs] s t) ∧
    (Completes (.andVxVy x y) s fun t =>
      (∀ r, t.reg r = if s.params.quirkLogicVfReset = true ∧ r = vf then 0
        else if r = x then s.reg x &&& s.reg y else s.reg r) ∧
      t.pc = s.pc + 2 ∧ Frame [.regs] s t) ∧
    (Completes (.xorVxVy x y) s fun t =>
      (∀ r, t.reg r = if s.params.quirkLogicVfReset = true ∧ r = vf then 0
        else if r = x then s.reg x ^^^ s.reg y else s.reg r) ∧
      t.pc = s.pc + 2 ∧ Frame [.regs] s t)

/-- R164, R165, R167: the sum or difference modulo 256, and in VF, written last, the carry or the
no-borrow flag; `x = F` keeps the flag. -/
def Obligations.AddAndSubtractSetTheFlag : Prop :=
  ∀ (x y : Nibble) (s : State),
    EncodedAs (.addVxVy x y) (joinRRN 0x8 x y 0x4) false ∧
    EncodedAs (.sub x y) (joinRRN 0x8 x y 0x5) false ∧
    EncodedAs (.subn x y) (joinRRN 0x8 x y 0x7) false ∧
    (Completes (.addVxVy x y) s fun t =>
      (∀ r, (t.reg r).toNat =
        if r = vf then (if 255 < (s.reg x).toNat + (s.reg y).toNat then 1 else 0)
        else if r = x then ((s.reg x).toNat + (s.reg y).toNat) % 256 else (s.reg r).toNat) ∧
      t.pc = s.pc + 2 ∧ Frame [.regs] s t) ∧
    (Completes (.sub x y) s fun t =>
      (∀ r, (t.reg r).toNat =
        if r = vf then (if (s.reg y).toNat ≤ (s.reg x).toNat then 1 else 0)
        else if r = x then ((s.reg x).toNat + 256 - (s.reg y).toNat) % 256 else (s.reg r).toNat) ∧
      t.pc = s.pc + 2 ∧ Frame [.regs] s t) ∧
    (Completes (.subn x y) s fun t =>
      (∀ r, (t.reg r).toNat =
        if r = vf then (if (s.reg x).toNat ≤ (s.reg y).toNat then 1 else 0)
        else if r = x then ((s.reg y).toNat + 256 - (s.reg x).toNat) % 256 else (s.reg r).toNat) ∧
      t.pc = s.pc + 2 ∧ Frame [.regs] s t)

/-- R166, R168: the source (V[x], or V[y] under the quirk) shifted by one, and in VF, written last,
the bit shifted out. -/
def Obligations.ShiftsMoveOneBitToTheFlag : Prop :=
  ∀ (x y : Nibble) (s : State) (src : Byte),
    src = (if s.params.quirkShiftSourceVy = true then s.reg y else s.reg x) →
    EncodedAs (.shr x y) (joinRRN 0x8 x y 0x6) false ∧
    EncodedAs (.shl x y) (joinRRN 0x8 x y 0xE) false ∧
    (Completes (.shr x y) s fun t =>
      (∀ r, (t.reg r).toNat = if r = vf then src.toNat % 2
        else if r = x then src.toNat / 2 else (s.reg r).toNat) ∧
      t.pc = s.pc + 2 ∧ Frame [.regs] s t) ∧
    (Completes (.shl x y) s fun t =>
      (∀ r, (t.reg r).toNat = if r = vf then src.toNat / 128
        else if r = x then src.toNat * 2 % 256 else (s.reg r).toNat) ∧
      t.pc = s.pc + 2 ∧ Frame [.regs] s t)

/-- R169, R239: the next drawn byte, whatever it is, masked by `nn`; one byte is drawn. That a counter
of draws names the byte and goes up by one is log entry 4 (the model's form of a free draw);
nothing rests on what the byte is. -/
def Obligations.RandomIsADrawMaskedByNn : Prop :=
  ∀ (x : Nibble) (nn : Byte) (s : State), EncodedAs (.rnd x nn) (joinRB 0xC x nn) false ∧
    Completes (.rnd x nn) s fun t =>
      (∀ r, t.reg r = if r = x then Config.rand s.randIx &&& nn else s.reg r) ∧
      t.randIx = s.randIx + 1 ∧ t.pc = s.pc + 2 ∧ Frame [.regs, .draws] s t

/-! ### Extended key, timer, index and memory instructions (spec/44_ext_timer_key_memory.md) -/

/-- R180 to R182: the key tested is the low 4 bits of V[x]. -/
def Obligations.SkipsOnAKey : Prop :=
  ∀ (x : Nibble) (s : State),
    EncodedAs (.skp x) (joinRB 0xE x 0x9E) false ∧ EncodedAs (.sknp x) (joinRB 0xE x 0xA1) false ∧
    (Completes (.skp x) s fun t =>
      t.pc = (if s.keys.getLsbD ((s.reg x).toNat % 16) = true then s.pc + 4 else s.pc + 2) ∧
      Frame [] s t) ∧
    (Completes (.sknp x) s fun t =>
      t.pc = (if s.keys.getLsbD ((s.reg x).toNat % 16) = true then s.pc + 2 else s.pc + 4) ∧
      Frame [] s t)

/-- R183: with no key held the step publishes, leaves `pc` at the instruction and changes nothing;
otherwise V[x] takes the lowest-numbered held key. -/
def Obligations.WaitForKeyRepeatsOrTakesTheLowest : Prop :=
  ∀ (x : Nibble) (s : State), EncodedAs (.ldVxK x) (joinRB 0xF x 0x0A) false ∧
    (s.keys = 0 → exec (.ldVxK x) s =
      .next { s with dispOut := s.disp, out := Output.published }) ∧
    (∀ k : Nat, k < 16 → s.keys.getLsbD k = true → (∀ j < k, s.keys.getLsbD j = false) →
      Completes (.ldVxK x) s fun t =>
        (∀ r, (t.reg r).toNat = if r = x then k else (s.reg r).toNat) ∧ t.pc = s.pc + 2 ∧
        Frame [.regs] s t)

/-- R184, R186, R187. -/
def Obligations.TimerReadAndWrites : Prop :=
  ∀ (x : Nibble) (s : State),
    EncodedAs (.ldVxDt x) (joinRB 0xF x 0x07) false ∧
    EncodedAs (.ldDtVx x) (joinRB 0xF x 0x15) false ∧
    EncodedAs (.ldStVx x) (joinRB 0xF x 0x18) false ∧
    (Completes (.ldVxDt x) s fun t =>
      (∀ r, t.reg r = if r = x then s.dt else s.reg r) ∧ t.pc = s.pc + 2 ∧ Frame [.regs] s t) ∧
    (Completes (.ldDtVx x) s fun t =>
      t.dt = s.reg x ∧ t.st = s.st ∧ t.pc = s.pc + 2 ∧ Frame [.timers] s t) ∧
    (Completes (.ldStVx x) s fun t =>
      t.st = s.reg x ∧ t.dt = s.dt ∧ t.pc = s.pc + 2 ∧ Frame [.timers] s t)

/-- R188, R189: the sum modulo 2^16 with VF untouched, and the address of a glyph. -/
def Obligations.IndexAdditionAndGlyphAddress : Prop :=
  ∀ (x : Nibble) (s : State),
    EncodedAs (.addIVx x) (joinRB 0xF x 0x1E) false ∧
    EncodedAs (.ldFVx x) (joinRB 0xF x 0x29) false ∧
    (Completes (.addIVx x) s fun t =>
      t.i.toNat = (s.i.toNat + (s.reg x).toNat) % 65536 ∧ t.pc = s.pc + 2 ∧ Frame [.index] s t) ∧
    (Completes (.ldFVx x) s fun t =>
      t.i.toNat = 0x050 + 5 * ((s.reg x).toNat % 16) ∧ t.pc = s.pc + 2 ∧ Frame [.index] s t)

/-- R190: hundreds, tens and ones at `I`, `I + 1` and `I + 2`, every other address as before; past
0xFFF the step faults. The premise is the invariant of `MemoryStaysCanonical`. -/
def Obligations.DecimalDigitsAreStoredOrFault : Prop :=
  ∀ (x : Nibble) (s : State), EncodedAs (.ldBVx x) (joinRB 0xF x 0x33) false ∧
    (MemoryCanonical s → s.i.toNat + 2 ≤ 0xFFF → Completes (.ldBVx x) s fun t =>
      (∀ a, (Memory.read t.mem a).toNat =
        if a = s.i.toNat then (s.reg x).toNat / 100
        else if a = s.i.toNat + 1 then (s.reg x).toNat / 10 % 10
        else if a = s.i.toNat + 2 then (s.reg x).toNat % 10
        else (Memory.read s.mem a).toNat) ∧
      t.pc = s.pc + 2 ∧ Frame [.memory] s t) ∧
    (0xFFF < s.i.toNat + 2 →
      FaultsWith (.ldBVx x) s .invalidAddress (BitVec.ofNat 16 (max s.i.toNat 0x1000)))

/-- R191: V0..V[x] at `I`..`I + x`, every other address as before, `I` moved under the quirk only;
past 0xFFF the step faults. The premise is the invariant of `MemoryStaysCanonical`. -/
def Obligations.RegistersAreStoredOrFault : Prop :=
  ∀ (x : Nibble) (s : State), EncodedAs (.ldMemVx x) (joinRB 0xF x 0x55) false ∧
    (MemoryCanonical s → s.i.toNat + x.toNat ≤ 0xFFF → Completes (.ldMemVx x) s fun t =>
      (∀ a, Memory.read t.mem a =
        if s.i.toNat ≤ a ∧ a ≤ s.i.toNat + x.toNat then s.reg (BitVec.ofNat 4 (a - s.i.toNat))
        else Memory.read s.mem a) ∧
      t.i.toNat = (if s.params.quirkLoadStoreIncI = true
        then (s.i.toNat + x.toNat + 1) % 65536 else s.i.toNat) ∧
      t.pc = s.pc + 2 ∧ Frame [.memory, .index] s t) ∧
    (0xFFF < s.i.toNat + x.toNat →
      FaultsWith (.ldMemVx x) s .invalidAddress (BitVec.ofNat 16 (max s.i.toNat 0x1000)))

/-- R192: V0..V[x] from `I`..`I + x`, the other registers as before, `I` moved under the quirk only;
past 0xFFF the step faults. -/
def Obligations.RegistersAreLoadedOrFault : Prop :=
  ∀ (x : Nibble) (s : State), EncodedAs (.ldVxMem x) (joinRB 0xF x 0x65) false ∧
    (s.i.toNat + x.toNat ≤ 0xFFF → Completes (.ldVxMem x) s fun t =>
      (∀ r, t.reg r = if r.toNat ≤ x.toNat then Memory.read s.mem (s.i.toNat + r.toNat)
        else s.reg r) ∧
      t.i.toNat = (if s.params.quirkLoadStoreIncI = true
        then (s.i.toNat + x.toNat + 1) % 65536 else s.i.toNat) ∧
      t.pc = s.pc + 2 ∧ Frame [.regs, .index] s t) ∧
    (0xFFF < s.i.toNat + x.toNat →
      FaultsWith (.ldVxMem x) s .invalidAddress (BitVec.ofNat 16 (max s.i.toNat 0x1000)))

/-! ### Two instructions in a row -/

/-- §8 of the source in 95 L1-6, over every sprite: drawing it twice at coordinates that VF does not
hold leaves the display as it was; on a blank display the first draw leaves VF = 0 and the second
sets it exactly when the sprite has a 1. -/
def Obligations.DrawingTwiceRestoresTheDisplay : Prop :=
  ∀ (x y n : Nibble) (s : State), x ≠ vf → y ≠ vf →
    n.toNat = 0 ∨ s.i.toNat + n.toNat - 1 ≤ 0xFFF →
    Completes (.drw x y n) s fun t => Completes (.drw x y n) t fun u =>
      sameDisplay s u ∧
      ((∀ px py, s.disp.cell px py = false) →
        t.reg vf = 0 ∧ (u.reg vf = 1 ↔ ∃ px py, SpriteCovers s x y n px py))

/-- R191, R192 with `QUIRK_LOADSTORE_INC_I` false: storing V0..V[x] and loading them back gives every
register its old value. -/
def Obligations.StoreThenLoadKeepsTheRegisters : Prop :=
  ∀ (x : Nibble) (s : State), MemoryCanonical s → s.i.toNat + x.toNat ≤ 0xFFF →
    s.params.quirkLoadStoreIncI = false →
    Completes (.ldMemVx x) s fun t => Completes (.ldVxMem x) t fun u => sameRegs s u

/-- R59, R68: two bytes stored by `FX55` are the word that the next fetch of that address reads, V0
its high byte. -/
def Obligations.StoredBytesAreFetched : Prop :=
  ∀ (x : Nibble) (s : State), MemoryCanonical s → 1 ≤ x.toNat → s.i.toNat + x.toNat ≤ 0xFFF →
    Completes (.ldMemVx x) s fun t => t.fetchWord s.i = .ok (joinBytes (s.reg 0) (s.reg 1))

/-- R267 (b): at a parked `pc` every later step of the engine changes no state but its publish. -/
def Obligations.ParkedStepOnlyPublishes : Prop :=
  ∀ (s s' : State), EndParked s → s.nextEvent = (.step, s') → s.run = .running →
    s.fault.cause = .none → 
    step s = .next { s' with dispOut := s.disp, out := Output.published }

/-! ### Rules of the whole machine -/

/-- R10, R107, R109, R216, R218: an instruction either raises the one cause it can raise and leaves
everything but the fault record and the outputs as it was, or commits and changes nothing but `pc`
and the parts that its rule writes. -/
def Obligations.InstructionsCommitInFrameOrFaultPrecisely : Prop :=
  ∀ (i : Instr) (s t : State), exec i s = .next t →
    (causeOf i ≠ .none ∧ ∃ faddr, t = faulted s (causeOf i) (encode i) faddr) ∨
      Frame (writesOf i) s t

/-- R22: an instruction leaves every general register that the table of R22 does not give it. -/
def Obligations.OnlyTheListedRegistersAreWritten : Prop :=
  ∀ (i : Instr) (s t : State) (r : Nibble), exec i s = .next t →
    writesReg s.params i r = false → t.reg r = s.reg r

/-- R25: `pc` after any instruction that commits is the value that the table of R25 gives for it, and
the instruction's own address when it faults. -/
def Obligations.ProgramCounterFollowsItsTable : Prop :=
  ∀ (i : Instr) (s t : State), exec i s = .next t →
    (t.out.publish = true ∧ t.pc = pcAfter s i) ∨
      (t.out.publish = false ∧ t.pc = s.pc ∧ t.fault.cause = causeOf i ∧ causeOf i ≠ .none)

/-- R27, R29, R30, R52, R213: under DOCUMENTED no step strobe changes memory, the call stack, a timer
or the count of drawn bytes, and no stack fault arises. -/
def Obligations.DocumentedStepsLeaveMemoryStackAndTimers : Prop :=
  ∀ (s t : State), s.params.opcodeSet = .documented → s.nextEvent.1 = .step →
    step s = .next t →
    sameMemory s t ∧ sameStack s t ∧ sameTimers s t ∧ t.randIx = s.randIx ∧
      (t.fault = s.fault ∨ t.fault.cause = .invalidAddress)

/-- R31: a display cell changes only in a step that runs `00E0` or `DXYN`, or by the reset of a
successful load. -/
def Obligations.OnlyDrawClearAndLoadChangeTheDisplay : Prop :=
  ∀ (s t : State) (px : Fin 64) (py : Fin 32), step s = .next t →
    t.disp.cell px py ≠ s.disp.cell px py →
    (∃ rom, s.nextEvent.1 = .load rom ∧ 0x200 + rom.length ≤ 4096) ∨
      (s.nextEvent.1 = .step ∧ ∃ w i, s.fetchWord s.pc = .ok w ∧
        decodeWord s.params.opcodeSet w = some i ∧ (i = .cls ∨ ∃ x y n, i = .drw x y n))

/-- R108, R233, R243: `disp_out` takes the display buffer in a transition that publishes, which only
a step strobe at an enabled engine does, and keeps what it shows in every other one. -/
def Obligations.DisplayOutputHoldsTheLastCompletedStep : Prop :=
  ∀ (s t : State), step s = .next t →
    (t.out.publish = true → s.nextEvent.1 = .step ∧ s.run = .running ∧ s.fault.cause = .none ∧
      t.dispOut = t.disp) ∧
    (t.out.publish = false → t.dispOut = s.dispOut)

/-- R212, R219: while the machine is faulted no transition but a successful load changes the fault
record, a register, `I`, `pc`, the stack, memory, the display or `disp_out`. -/
def Obligations.FaultIsStickyUntilALoad : Prop :=
  ∀ (s t : State), s.fault.cause ≠ .none → step s = .next t →
    (∀ rom, s.nextEvent.1 = .load rom → 4096 < 0x200 + rom.length) →
    t.fault = s.fault ∧ t.v = s.v ∧ t.i = s.i ∧ t.pc = s.pc ∧ t.sp = s.sp ∧ t.stack = s.stack ∧
      t.mem = s.mem ∧ t.disp = s.disp ∧ t.dispOut = s.dispOut

/-- R231: while RUN is STOPPED no transition but `run()` or a successful load changes the machine:
only the inputs that wait and the outputs move. -/
def Obligations.StoppedMachineKeepsItsState : Prop :=
  ∀ (s t : State), s.run = .stopped → step s = .next t → s.nextEvent.1 ≠ .run →
    (∀ rom, s.nextEvent.1 = .load rom → 4096 < 0x200 + rom.length) →
    t = { s with keys := t.keys, pending := t.pending, eventIx := t.eventIx, out := t.out }

/-! ### Invariants -/

/-- R50, R65: every step keeps memory in its canonical form, with no cell outside the address
space. -/
def Obligations.MemoryStaysCanonical : Prop :=
  ∀ (s t : State), MemoryCanonical s → step s = .next t → MemoryCanonical t

/-- R26, R140, R146: from a state with `pc` at or below 0x10FE and every stack entry at or below
0x1000, every step gives such a state; so the wrap of `pc` at 2^16 is never reached. -/
def Obligations.AddressesStayBounded : Prop :=
  ∀ (s t : State), AddressesBounded s → step s = .next t → AddressesBounded t

/-- R35, R109, R212, R213, R218: every step keeps the fault record consistent: it is clear, or it
names the instruction at `pc` and fits its cause. -/
def Obligations.FaultRecordStaysConsistent : Prop :=
  ∀ (s t : State), FaultConsistent s → step s = .next t → FaultConsistent t

/-- The three invariants hold at creation, whatever the parameters, the keypad and the events. -/
def Obligations.CreatedMachineMeetsTheInvariants : Prop :=
  ∀ (p : Params) (held : BitVec 16) (events : List Event),
    MemoryCanonical (State.created p held events) ∧ AddressesBounded (State.created p held events) ∧
      FaultConsistent (State.created p held events)

/-- R6: no transition changes the parameters of the machine (log entry 1 is the model's form). -/
def Obligations.ParametersNeverChange : Prop :=
  ∀ (s t : State), step s = .next t → t.params = s.params

/-- The canonical form decides memory: two canonical memories that read alike at every address are
the same data, so equal machines are equal states. -/
def Obligations.CanonicalMemoriesThatReadAlikeAreEqual : Prop :=
  ∀ m m' : Memory, Memory.wf m → Memory.wf m' → (∀ a, Memory.read m a = Memory.read m' a) → m = m'
end

