-- ==== Sys2Proof/Laws/Display.lean ====
section
/-!
SUPPORT. The display buffer: what a cell holds after a clear, a flip, a sprite row and a whole
sprite, and when the collision flag is set.
-/

namespace Sys2Proof.Machine

@[simp] theorem Display.cell_blank (px : Fin 64) (py : Fin 32) :
    Display.blank.cell px py = false := by
  simp [Display.blank, Display.cell]

theorem Display.cell_flip (d : Display) (px qx : Fin 64) (py qy : Fin 32) :
    (d.flip px py).cell qx qy = (d.cell qx qy ^^ decide (qx = px ∧ qy = py)) := by
  unfold Display.flip Display.cell
  by_cases hx : qx = px
  · subst hx
    by_cases hy : qy = py
    · subst hy; simp
    · have : (py : Nat) ≠ qy := fun h => hy (Fin.ext h.symm)
      simp [hy, this]
  · have : (px : Nat) ≠ qx := fun h => hx (Fin.ext h.symm)
    simp [hx, this]

@[simp] theorem column_val (n : Nat) : (column n).val = n % 64 := rfl

@[simp] theorem row_val (n : Nat) : (row n).val = n % 32 := rfl

/-- The pixel loop over a list of distinct columns. -/
theorem drawColumns_spec (xs : Nat) (py : Fin 32) (bits : Byte) (cs : List Nat)
    (hcs : cs.Nodup) (hlt : ∀ c ∈ cs, c < 8) (acc : Display × Bool) :
    let out := cs.foldl
      (fun acc c => if bits.getLsbD (7 - c) then drawPixel acc (column (xs + c)) py else acc) acc
    (∀ qx qy, out.1.cell qx qy = (acc.1.cell qx qy ^^
        decide (qy = py ∧ ∃ c ∈ cs, bits.getLsbD (7 - c) = true ∧ qx = column (xs + c)))) ∧
      (out.2 = true ↔ acc.2 = true ∨
        ∃ c ∈ cs, bits.getLsbD (7 - c) = true ∧ acc.1.cell (column (xs + c)) py = true) := by
  induction cs generalizing acc with
  | nil => simp
  | cons c cs ih =>
    have hne : ∀ d ∈ cs, column (xs + d) ≠ column (xs + c) := by
      intro d hd h
      have h' := congrArg Fin.val h
      have hd8 := hlt d (by simp [hd])
      have hc8 := hlt c (by simp)
      have hdc : d ≠ c := by rintro rfl; exact (List.nodup_cons.1 hcs).1 hd
      simp only [column_val] at h'
      omega
    have ih' := fun a => ih (List.nodup_cons.1 hcs).2 (fun d hd => hlt d (by simp [hd])) a
    by_cases hb : bits.getLsbD (7 - c) = true
    · obtain ⟨h1, h2⟩ := ih' (drawPixel acc (column (xs + c)) py)
      simp only [List.foldl_cons, if_pos hb]
      constructor
      · intro qx qy
        rw [h1, drawPixel, Display.cell_flip, Bool.xor_assoc]
        congr 1
        by_cases hy : qy = py
        · by_cases hx : qx = column (xs + c)
          · have hno : ∀ d ∈ cs, bits.getLsbD (7 - d) = true →
                ¬ column (xs + c) = column (xs + d) := fun d hd _ h => hne d hd h.symm
            simpa [hy, hx, hb] using hno
          · simp [hy, hx]
        · simp [hy]
      · rw [h2]
        simp only [drawPixel, Bool.or_eq_true, List.mem_cons, exists_eq_or_imp, hb, true_and]
        have : ∀ d ∈ cs, (acc.1.flip (column (xs + c)) py).cell (column (xs + d)) py
            = acc.1.cell (column (xs + d)) py := by
          intro d hd; rw [Display.cell_flip]; simp [hne d hd]
        constructor
        · rintro ((h | h) | ⟨d, hd, hbd, h⟩)
          · exact .inl h
          · exact .inr (.inl h)
          · exact .inr (.inr ⟨d, hd, hbd, by rwa [this d hd] at h⟩)
        · rintro (h | h | ⟨d, hd, hbd, h⟩)
          · exact .inl (.inl h)
          · exact .inl (.inr h)
          · exact .inr ⟨d, hd, hbd, by rwa [this d hd]⟩
    · obtain ⟨h1, h2⟩ := ih' acc
      simp only [List.foldl_cons, if_neg hb]
      refine ⟨fun qx qy => ?_, ?_⟩
      · rw [h1]; simp [hb]
      · rw [h2]; simp [hb]

/-- One sprite row: its set bits are flipped, bit `7 - c` at column `xs + c` (R125, R126), and the
flag says whether one of those cells was 1 (R127). -/
theorem drawRow_spec (xs ys : Nat) (bits : Byte) (acc : Display × Bool) :
    (∀ qx qy, (drawRow xs ys bits acc).1.cell qx qy = (acc.1.cell qx qy ^^
        decide (qy = row ys ∧ ∃ c ∈ List.range 8, bits.getLsbD (7 - c) = true ∧
          qx = column (xs + c)))) ∧
      ((drawRow xs ys bits acc).2 = true ↔ acc.2 = true ∨ ∃ c ∈ List.range 8,
        bits.getLsbD (7 - c) = true ∧ acc.1.cell (column (xs + c)) (row ys) = true) :=
  drawColumns_spec xs (row ys) bits (List.range 8) List.nodup_range
    (fun _ hc => List.mem_range.1 hc) acc

/-- Whether a sprite at column `xs` and row `ys` has a 1 that falls on the cell. -/
def rowsCover (xs ys : Nat) (rows : List Byte) (qx : Fin 64) (qy : Fin 32) : Prop :=
  ∃ r < rows.length, ∃ c ∈ List.range 8, (rows.getD r 0).getLsbD (7 - c) = true ∧
    qx = column (xs + c) ∧ qy = row (ys + r)

theorem rowsCover_cons (xs ys : Nat) (b : Byte) (rest : List Byte) (qx : Fin 64) (qy : Fin 32) :
    rowsCover xs ys (b :: rest) qx qy ↔
      (qy = row ys ∧ ∃ c ∈ List.range 8, b.getLsbD (7 - c) = true ∧ qx = column (xs + c)) ∨
        rowsCover xs (ys + 1) rest qx qy := by
  constructor
  · rintro ⟨r, hr, c, hc, hb, hx, hy⟩
    cases r with
    | zero => exact .inl ⟨by simpa using hy, c, hc, by simpa using hb, hx⟩
    | succ r =>
      refine .inr ⟨r, by simpa using hr, c, hc, by simpa using hb, hx, ?_⟩
      rw [hy]; congr 1; omega
  · rintro (⟨hy, c, hc, hb, hx⟩ | ⟨r, hr, c, hc, hb, hx, hy⟩)
    · exact ⟨0, by simp, c, hc, by simpa using hb, hx, by simpa using hy⟩
    · refine ⟨r + 1, by simpa using hr, c, hc, by simpa using hb, hx, ?_⟩
      rw [hy]; congr 1; omega

/-- The rows below the first one do not fall on its row: a sprite has at most 32. -/
theorem not_rowsCover_first (xs ys : Nat) (rest : List Byte) (h : rest.length < 32)
    (qx : Fin 64) : ¬ rowsCover xs (ys + 1) rest qx (row ys) := by
  rintro ⟨r, hr, c, -, -, -, hy⟩
  have hy' := congrArg Fin.val hy
  simp only [row_val] at hy'
  omega

/-- A whole sprite of at most 32 rows: every cell it covers is flipped and no other cell changes
(R125, R126). -/
theorem drawRows_cell (xs ys : Nat) (rows : List Byte) (hlen : rows.length ≤ 32)
    (acc : Display × Bool) (qx : Fin 64) (qy : Fin 32) :
    (rowsCover xs ys rows qx qy →
        (drawRows xs ys rows acc).1.cell qx qy = !acc.1.cell qx qy) ∧
      (¬ rowsCover xs ys rows qx qy →
        (drawRows xs ys rows acc).1.cell qx qy = acc.1.cell qx qy) := by
  induction rows generalizing ys acc with
  | nil => exact ⟨fun ⟨r, hr, _⟩ => absurd hr (by simp), fun _ => rfl⟩
  | cons b rest ih =>
    simp only [List.length_cons] at hlen
    have r1 := (drawRow_spec xs ys b acc).1 qx qy
    obtain ⟨h1, h2⟩ := ih (ys + 1) (by omega) (drawRow xs ys b acc)
    rw [rowsCover_cons, drawRows]
    by_cases hfirst : qy = row ys ∧ ∃ c ∈ List.range 8, b.getLsbD (7 - c) = true ∧
        qx = column (xs + c)
    · have hrest : ¬ rowsCover xs (ys + 1) rest qx qy :=
        hfirst.1 ▸ not_rowsCover_first xs ys rest (by omega) qx
      rw [decide_eq_true hfirst, Bool.xor_true] at r1
      exact ⟨fun _ => by rw [h2 hrest, r1], fun h => absurd (.inl hfirst) h⟩
    · rw [decide_eq_false hfirst, Bool.xor_false] at r1
      refine ⟨fun h => ?_, fun h => ?_⟩
      · rw [h1 (h.resolve_left hfirst), r1]
      · rw [h2 fun hr => h (.inr hr), r1]

/-- The collision flag of a whole sprite: whether a covered cell was 1 (R127). -/
theorem drawRows_flag (xs ys : Nat) (rows : List Byte) (hlen : rows.length ≤ 32)
    (acc : Display × Bool) :
    (drawRows xs ys rows acc).2 = true ↔
      acc.2 = true ∨ ∃ qx qy, rowsCover xs ys rows qx qy ∧ acc.1.cell qx qy = true := by
  induction rows generalizing ys acc with
  | nil => simp [drawRows, rowsCover]
  | cons b rest ih =>
    simp only [List.length_cons] at hlen
    obtain ⟨r1, r2⟩ := drawRow_spec xs ys b acc
    rw [drawRows, ih (ys + 1) (by omega), r2, or_assoc]
    refine or_congr_right ?_
    have hcell : ∀ qx qy, rowsCover xs (ys + 1) rest qx qy →
        (drawRow xs ys b acc).1.cell qx qy = acc.1.cell qx qy := by
      intro qx qy hc
      rw [r1, decide_eq_false, Bool.xor_false]
      rintro ⟨rfl, -⟩
      exact not_rowsCover_first xs ys rest (by omega) qx hc
    constructor
    · rintro (⟨c, hc, hb, h⟩ | ⟨qx, qy, hcov, h⟩)
      · exact ⟨_, _, (rowsCover_cons ..).2 (.inl ⟨rfl, c, hc, hb, rfl⟩), h⟩
      · exact ⟨qx, qy, (rowsCover_cons ..).2 (.inr hcov), hcell qx qy hcov ▸ h⟩
    · rintro ⟨qx, qy, hcov, h⟩
      rcases (rowsCover_cons ..).1 hcov with ⟨rfl, c, hc, hb, rfl⟩ | hrest
      · exact .inl ⟨c, hc, hb, h⟩
      · exact .inr ⟨qx, qy, hrest, (hcell qx qy hrest).symm ▸ h⟩

end Sys2Proof.Machine
end

