-- ==== Sys2Proof/Laws/Encoding.lean ====
section
/-!
SUPPORT. The fields of a joined word, and a word as the join of its fields (R8, R81, R82).
-/

namespace Sys2Proof

theorem fieldOp_toNat (w : Word) : (fieldOp w).toNat = w.toNat / 4096 % 16 := by
  simp [fieldOp, Nat.shiftRight_eq_div_pow]

theorem fieldX_toNat (w : Word) : (fieldX w).toNat = w.toNat / 256 % 16 := by
  simp [fieldX, Nat.shiftRight_eq_div_pow]

theorem fieldY_toNat (w : Word) : (fieldY w).toNat = w.toNat / 16 % 16 := by
  simp [fieldY, Nat.shiftRight_eq_div_pow]

theorem fieldN_toNat (w : Word) : (fieldN w).toNat = w.toNat % 16 := by
  simp [fieldN]

theorem fieldNN_toNat (w : Word) : (fieldNN w).toNat = w.toNat % 256 := by
  simp [fieldNN]

theorem fieldNNN_toNat (w : Word) : (fieldNNN w).toNat = w.toNat % 4096 := by
  simp [fieldNNN]

theorem joinBytes_toNat (hi lo : Byte) : (joinBytes hi lo).toNat = hi.toNat * 256 + lo.toNat := by
  have := hi.isLt; have := lo.isLt
  simp [joinBytes]; omega

theorem joinA_toNat (op : Nibble) (nnn : Addr) :
    (joinA op nnn).toNat = op.toNat * 4096 + nnn.toNat := by
  have := op.isLt; have := nnn.isLt
  simp [joinA]; omega

theorem joinRB_toNat (op x : Nibble) (nn : Byte) :
    (joinRB op x nn).toNat = op.toNat * 4096 + x.toNat * 256 + nn.toNat := by
  have := op.isLt; have := x.isLt; have := nn.isLt
  simp [joinRB]; omega

theorem joinRRN_toNat (op x y n : Nibble) :
    (joinRRN op x y n).toNat = op.toNat * 4096 + x.toNat * 256 + y.toNat * 16 + n.toNat := by
  have := op.isLt; have := x.isLt; have := y.isLt; have := n.isLt
  simp [joinRRN]; omega

/-! ### The fields of a joined word -/

@[simp] theorem fieldOp_joinA (op : Nibble) (nnn : Addr) : fieldOp (joinA op nnn) = op := by
  apply BitVec.eq_of_toNat_eq
  have := op.isLt; have := nnn.isLt
  rw [fieldOp_toNat, joinA_toNat]; omega

@[simp] theorem fieldNNN_joinA (op : Nibble) (nnn : Addr) : fieldNNN (joinA op nnn) = nnn := by
  apply BitVec.eq_of_toNat_eq
  have := op.isLt; have := nnn.isLt
  rw [fieldNNN_toNat, joinA_toNat]; omega

@[simp] theorem fieldOp_joinRB (op x : Nibble) (nn : Byte) : fieldOp (joinRB op x nn) = op := by
  apply BitVec.eq_of_toNat_eq
  have := op.isLt; have := x.isLt; have := nn.isLt
  rw [fieldOp_toNat, joinRB_toNat]; omega

@[simp] theorem fieldX_joinRB (op x : Nibble) (nn : Byte) : fieldX (joinRB op x nn) = x := by
  apply BitVec.eq_of_toNat_eq
  have := op.isLt; have := x.isLt; have := nn.isLt
  rw [fieldX_toNat, joinRB_toNat]; omega

@[simp] theorem fieldNN_joinRB (op x : Nibble) (nn : Byte) : fieldNN (joinRB op x nn) = nn := by
  apply BitVec.eq_of_toNat_eq
  have := op.isLt; have := x.isLt; have := nn.isLt
  rw [fieldNN_toNat, joinRB_toNat]; omega

@[simp] theorem fieldOp_joinRRN (op x y n : Nibble) : fieldOp (joinRRN op x y n) = op := by
  apply BitVec.eq_of_toNat_eq
  have := op.isLt; have := x.isLt; have := y.isLt; have := n.isLt
  rw [fieldOp_toNat, joinRRN_toNat]; omega

@[simp] theorem fieldX_joinRRN (op x y n : Nibble) : fieldX (joinRRN op x y n) = x := by
  apply BitVec.eq_of_toNat_eq
  have := op.isLt; have := x.isLt; have := y.isLt; have := n.isLt
  rw [fieldX_toNat, joinRRN_toNat]; omega

@[simp] theorem fieldY_joinRRN (op x y n : Nibble) : fieldY (joinRRN op x y n) = y := by
  apply BitVec.eq_of_toNat_eq
  have := op.isLt; have := x.isLt; have := y.isLt; have := n.isLt
  rw [fieldY_toNat, joinRRN_toNat]; omega

@[simp] theorem fieldN_joinRRN (op x y n : Nibble) : fieldN (joinRRN op x y n) = n := by
  apply BitVec.eq_of_toNat_eq
  have := op.isLt; have := x.isLt; have := y.isLt; have := n.isLt
  rw [fieldN_toNat, joinRRN_toNat]; omega

/-! ### A word is the join of its fields -/

theorem joinA_fields (w : Word) : joinA (fieldOp w) (fieldNNN w) = w := by
  apply BitVec.eq_of_toNat_eq
  have := w.isLt
  rw [joinA_toNat, fieldOp_toNat, fieldNNN_toNat]; omega

theorem joinRB_fields (w : Word) : joinRB (fieldOp w) (fieldX w) (fieldNN w) = w := by
  apply BitVec.eq_of_toNat_eq
  have := w.isLt
  rw [joinRB_toNat, fieldOp_toNat, fieldX_toNat, fieldNN_toNat]; omega

theorem joinRRN_fields (w : Word) :
    joinRRN (fieldOp w) (fieldX w) (fieldY w) (fieldN w) = w := by
  apply BitVec.eq_of_toNat_eq
  have := w.isLt
  rw [joinRRN_toNat, fieldOp_toNat, fieldX_toNat, fieldY_toNat, fieldN_toNat]; omega

theorem joinBytes_wordBytes (w : Word) : joinBytes (highByte w) (lowByte w) = w := by
  apply BitVec.eq_of_toNat_eq
  have := w.isLt
  rw [joinBytes_toNat]
  simp [highByte, lowByte, Nat.shiftRight_eq_div_pow]; omega

/-! ### Words under the masks of the opcode table -/

/-- Two words are equal when their `op`, `x` and `nn` are. -/
theorem word_ext_RB {a b : Word} (h1 : fieldOp a = fieldOp b) (h2 : fieldX a = fieldX b)
    (h3 : fieldNN a = fieldNN b) : a = b := by
  rw [← joinRB_fields a, ← joinRB_fields b, h1, h2, h3]

/-- Two words are equal when their four nibbles are. -/
theorem word_ext_RRN {a b : Word} (h1 : fieldOp a = fieldOp b) (h2 : fieldX a = fieldX b)
    (h3 : fieldY a = fieldY b) (h4 : fieldN a = fieldN b) : a = b := by
  rw [← joinRRN_fields a, ← joinRRN_fields b, h1, h2, h3, h4]

theorem fieldOp_and (a b : Word) : fieldOp (a &&& b) = fieldOp a &&& fieldOp b := by
  simp [fieldOp, BitVec.extractLsb'_and]

theorem fieldX_and (a b : Word) : fieldX (a &&& b) = fieldX a &&& fieldX b := by
  simp [fieldX, BitVec.extractLsb'_and]

theorem fieldY_and (a b : Word) : fieldY (a &&& b) = fieldY a &&& fieldY b := by
  simp [fieldY, BitVec.extractLsb'_and]

theorem fieldN_and (a b : Word) : fieldN (a &&& b) = fieldN a &&& fieldN b := by
  simp [fieldN, BitVec.extractLsb'_and]

theorem fieldNN_and (a b : Word) : fieldNN (a &&& b) = fieldNN a &&& fieldNN b := by
  simp [fieldNN, BitVec.extractLsb'_and]

theorem nibble_and_ones (a : Nibble) : a &&& 0xF = a := BitVec.and_allOnes

theorem byte_and_ones (a : Byte) : a &&& 0xFF = a := BitVec.and_allOnes

/-- The mask of the formats that fix `op` alone. -/
theorem and_mask_op (w : Word) : w &&& 0xF000 = joinRB (fieldOp w) 0 0 := by
  apply word_ext_RB
  · rw [fieldOp_and, fieldOp_joinRB]; exact nibble_and_ones _
  · rw [fieldX_and, fieldX_joinRB]; exact BitVec.and_zero
  · rw [fieldNN_and, fieldNN_joinRB]; exact BitVec.and_zero

/-- The mask of format `RRF`. -/
theorem and_mask_RRF (w : Word) : w &&& 0xF00F = joinRRN (fieldOp w) 0 0 (fieldN w) := by
  apply word_ext_RRN
  · rw [fieldOp_and, fieldOp_joinRRN]; exact nibble_and_ones _
  · rw [fieldX_and, fieldX_joinRRN]; exact BitVec.and_zero
  · rw [fieldY_and, fieldY_joinRRN]; exact BitVec.and_zero
  · rw [fieldN_and, fieldN_joinRRN]; exact nibble_and_ones _

/-- The mask of format `RF`. -/
theorem and_mask_RF (w : Word) : w &&& 0xF0FF = joinRB (fieldOp w) 0 (fieldNN w) := by
  apply word_ext_RB
  · rw [fieldOp_and, fieldOp_joinRB]; exact nibble_and_ones _
  · rw [fieldX_and, fieldX_joinRB]; exact BitVec.and_zero
  · rw [fieldNN_and, fieldNN_joinRB]; exact byte_and_ones _

/-- The mask of format `W`. -/
theorem and_mask_W (w : Word) : w &&& 0xFFFF = w := BitVec.and_allOnes

end Sys2Proof
end

