-- ==== Sys2Proof/Laws/Memory.lean ====
section
/-!
SUPPORT. Memory: what a read gives after a write, that every memory operation keeps the canonical
form, and what the bounds check answers.
-/

namespace Sys2Proof.Machine

@[simp] theorem Memory.read_nil (a : Nat) : Memory.read [] a = Memory.initial a := rfl

theorem Memory.read_cell (c : Host.Cell) (m : Memory) (a : Nat) :
    Memory.read (c :: m) a = if c.1 = a then c.2 else Memory.read m a := rfl

@[simp] theorem Memory.wf_nil : Memory.wf [] := by simp [Memory.wf]

/-- An address below every listed one reads as unlisted. -/
theorem Memory.read_of_lt {m : Memory} {a : Nat} (h : ∀ c ∈ m, a < c.1) :
    Memory.read m a = Memory.initial a := by
  induction m with
  | nil => rfl
  | cons c m ih =>
    have hc := h c (by simp)
    rw [read_cell, if_neg (by omega), ih fun d hd => h d (by simp [hd])]

theorem Memory.wf_tail {c : Host.Cell} {m : Memory} (h : Memory.wf (c :: m)) : Memory.wf m :=
  ⟨(List.pairwise_cons.1 h.1).2, fun d hd => h.2 d (by simp [hd])⟩

theorem Memory.wf_head {c : Host.Cell} {m : Memory} (h : Memory.wf (c :: m)) :
    ∀ d ∈ m, c.1 < d.1 := (List.pairwise_cons.1 h.1).1

/-- The bytes after `Memory.cons`, in front of cells that all lie above. -/
theorem Memory.read_cons {m : Memory} {a : Nat} (b : Byte) (h : ∀ c ∈ m, a < c.1) (a' : Nat) :
    Memory.read (Memory.cons a b m) a' = if a' = a then b else Memory.read m a' := by
  unfold Memory.cons
  split
  · split
    · subst_vars; exact read_of_lt h
    · rfl
  · rw [read_cell]; simp [eq_comm]

theorem Memory.wf_cons {m : Memory} {a : Nat} (b : Byte) (ha : a < memSize)
    (h : ∀ c ∈ m, a < c.1) (hm : Memory.wf m) : Memory.wf (Memory.cons a b m) := by
  unfold Memory.cons
  split
  · exact hm
  · refine ⟨List.pairwise_cons.2 ⟨h, hm.1⟩, ?_⟩
    intro c hc
    rcases List.mem_cons.1 hc with rfl | hc
    · exact ⟨ha, ‹_›⟩
    · exact hm.2 c hc

/-- A written cell's address is either the written one or was listed before. -/
theorem Memory.mem_write {m : Memory} {a : Nat} {b : Byte} {c : Host.Cell}
    (h : c ∈ Memory.write m a b) : c.1 = a ∨ c ∈ m := by
  induction m with
  | nil =>
    simp only [Memory.write, Memory.cons] at h
    split at h <;> simp_all
  | cons d m ih =>
    simp only [Memory.write, Memory.cons] at h
    split at h
    · split at h
      · exact .inr h
      · rcases List.mem_cons.1 h with rfl | h
        · exact .inl rfl
        · exact .inr h
    · split at h
      · split at h
        · exact .inr (by simp [h])
        · rcases List.mem_cons.1 h with rfl | h
          · exact .inl rfl
          · exact .inr (by simp [h])
      · rcases List.mem_cons.1 h with rfl | h
        · exact .inr (by simp)
        · rcases ih h with h | h
          · exact .inl h
          · exact .inr (by simp [h])

/-- Read after write: the byte written at its own address, the old byte everywhere else. -/
theorem Memory.read_write {m : Memory} (hm : Memory.wf m) (a : Nat) (b : Byte) (a' : Nat) :
    Memory.read (Memory.write m a b) a' = if a' = a then b else Memory.read m a' := by
  induction m with
  | nil => exact read_cons b (by simp) a'
  | cons c m ih =>
    have hlt := wf_head hm
    unfold Memory.write
    split
    · rename_i hac
      refine read_cons b ?_ a'
      intro d hd
      rcases List.mem_cons.1 hd with rfl | hd
      · exact hac
      · exact lt_trans hac (hlt d hd)
    · split
      · rename_i hac
        subst hac
        rw [read_cons b hlt, read_cell]
        by_cases h : a' = c.1 <;> simp [h, eq_comm]
      · rename_i h1 h2
        rw [read_cell, read_cell, ih (wf_tail hm)]
        by_cases h : c.1 = a'
        · have : a' ≠ a := by omega
          simp [h, this]
        · simp [h]

/-- A write inside the address space keeps the canonical form. -/
theorem Memory.write_wf {m : Memory} (hm : Memory.wf m) {a : Nat} (ha : a < memSize) (b : Byte) :
    Memory.wf (Memory.write m a b) := by
  induction m with
  | nil => exact wf_cons b ha (by simp) hm
  | cons c m ih =>
    have hlt := wf_head hm
    unfold Memory.write
    split
    · rename_i hac
      refine wf_cons b ha ?_ hm
      intro d hd
      rcases List.mem_cons.1 hd with rfl | hd
      · exact hac
      · exact lt_trans hac (hlt d hd)
    · split
      · rename_i hac
        exact wf_cons b ha (by simpa [hac] using hlt) (wf_tail hm)
      · have hw := ih (wf_tail hm)
        refine ⟨List.pairwise_cons.2 ⟨?_, hw.1⟩, ?_⟩
        · intro d hd
          rcases mem_write hd with h | h
          · omega
          · exact hlt d h
        · intro d hd
          rcases List.mem_cons.1 hd with rfl | hd
          · exact hm.2 _ (by simp)
          · exact hw.2 d hd

/-- Writing consecutive bytes inside the address space keeps the canonical form. -/
theorem Memory.writeBytes_wf {m : Memory} (hm : Memory.wf m) {a : Nat} (bs : List Byte)
    (h : a + bs.length ≤ memSize) : Memory.wf (Memory.writeBytes m a bs) := by
  induction bs generalizing m a with
  | nil => exact hm
  | cons b bs ih =>
    simp only [List.length_cons] at h
    exact ih (write_wf hm (by omega) b) (by omega)

/-- Read after writing consecutive bytes: byte `k` at `a + k`, the old byte outside. -/
theorem Memory.read_writeBytes {m : Memory} (hm : Memory.wf m) {a : Nat} (bs : List Byte)
    (h : a + bs.length ≤ memSize) (a' : Nat) :
    Memory.read (Memory.writeBytes m a bs) a' =
      if a ≤ a' ∧ a' < a + bs.length then bs.getD (a' - a) 0 else Memory.read m a' := by
  induction bs generalizing m a with
  | nil => simp [Memory.writeBytes]
  | cons b bs ih =>
    simp only [List.length_cons] at h
    rw [Memory.writeBytes, ih (write_wf hm (by omega) b) (by omega), read_write hm]
    by_cases h1 : a' = a
    · subst h1; simp
    · by_cases h2 : a + 1 ≤ a' ∧ a' < a + 1 + bs.length
      · have h3 : a' - a = a' - (a + 1) + 1 := by omega
        rw [if_pos h2, if_pos (by simp; omega), h3]
        simp
      · rw [if_neg h2, if_neg h1, if_neg (by simp; omega)]

/-- The access stays inside the address space (R62): the check passes. -/
theorem checkRange_eq_none {start len : Nat} :
    checkRange start len = none ↔ len = 0 ∨ start + len ≤ memSize := by
  unfold checkRange memSize
  split <;> simp <;> omega

/-- The access leaves the address space: the error is the first address above 0xFFF (R62, R211). -/
theorem checkRange_eq_some {start len bad : Nat} :
    checkRange start len = some bad ↔
      0 < len ∧ memSize < start + len ∧ bad = max start 0x1000 := by
  unfold checkRange memSize
  split
  · simp only [Option.some.injEq]; omega
  · simp; omega

/-- What `MemRead` answers. -/
theorem memRead_ok {s : State} {a len : Nat} (h : len = 0 ∨ a + len ≤ memSize) :
    s.memRead a len = .ok ((List.range len).map fun k => Memory.read s.mem (a + k)) := by
  unfold State.memRead
  rw [checkRange_eq_none.2 h]

theorem memRead_error {s : State} {a len : Nat} (h0 : 0 < len) (h : memSize < a + len) :
    s.memRead a len = .error (max a 0x1000) := by
  unfold State.memRead
  rw [checkRange_eq_some.2 ⟨h0, h, rfl⟩]

/-- `MemRead` answers in one of two ways. -/
theorem memRead_cases (s : State) (a len : Nat) :
    ((len = 0 ∨ a + len ≤ memSize) ∧
        s.memRead a len = .ok ((List.range len).map fun k => Memory.read s.mem (a + k))) ∨
      (0 < len ∧ memSize < a + len ∧ s.memRead a len = .error (max a 0x1000)) := by
  by_cases h : len = 0 ∨ a + len ≤ memSize
  · exact .inl ⟨h, memRead_ok h⟩
  · exact .inr ⟨by omega, by omega, memRead_error (by omega) (by omega)⟩

/-- `MemWrite` answers in one of two ways. -/
theorem memWrite_cases (s : State) (a : Nat) (bs : List Byte) :
    ((bs.length = 0 ∨ a + bs.length ≤ memSize) ∧
        s.memWrite a bs = .ok (s.setMem (Memory.writeBytes s.mem a bs))) ∨
      (0 < bs.length ∧ memSize < a + bs.length ∧ s.memWrite a bs = .error (max a 0x1000)) := by
  unfold State.memWrite
  by_cases h : bs.length = 0 ∨ a + bs.length ≤ memSize
  · rw [checkRange_eq_none.2 h]; exact .inl ⟨h, rfl⟩
  · rw [checkRange_eq_some.2 ⟨by omega, by omega, rfl⟩]; exact .inr ⟨by omega, by omega, rfl⟩

/-- `FetchWord` answers the big-endian word, or the first address above 0xFFF (R58, R102). -/
theorem fetchWord_cases (s : State) (a : Word) :
    (a.toNat ≤ 0xFFE ∧
        s.fetchWord a =
          .ok (joinBytes (Memory.read s.mem a.toNat) (Memory.read s.mem (a.toNat + 1)))) ∨
      (0xFFE < a.toNat ∧ s.fetchWord a = .error (max a.toNat 0x1000)) := by
  unfold State.fetchWord
  by_cases h : a.toNat ≤ 0xFFE
  · rw [checkRange_eq_none.2 (by unfold memSize; omega)]; exact .inl ⟨h, rfl⟩
  · rw [checkRange_eq_some.2 ⟨by omega, by unfold memSize; omega, rfl⟩]
    exact .inr ⟨by omega, rfl⟩

/-- `Load` answers the memory with the bytes placed, or OutOfBounds (R63). -/
theorem Memory.load_cases (m : Memory) (bs : List Byte) (a : Nat) :
    (a + bs.length ≤ memSize ∧ Memory.load m bs a = some (Memory.writeBytes m a bs)) ∨
      (memSize < a + bs.length ∧ Memory.load m bs a = none) := by
  unfold Memory.load
  split
  · exact .inr ⟨‹_›, rfl⟩
  · exact .inl ⟨by omega, rfl⟩

end Sys2Proof.Machine
end

