-- ==== Sys2Proof/Laws/State.lean ====
section
/-!
SUPPORT. One lemma per field of the state and per update, so that no proof unfolds a record update.
-/

namespace Sys2Proof.Machine

variable (s : State)

/-! `State.setReg` -/

@[simp] theorem setReg_v (x : Nibble) (b : Byte) : (s.setReg x b).v = s.v.set x.toNat b x.isLt := rfl
@[simp] theorem setReg_i (x : Nibble) (b : Byte) : (s.setReg x b).i = s.i := rfl
@[simp] theorem setReg_pc (x : Nibble) (b : Byte) : (s.setReg x b).pc = s.pc := rfl
@[simp] theorem setReg_stack (x : Nibble) (b : Byte) : (s.setReg x b).stack = s.stack := rfl
@[simp] theorem setReg_sp (x : Nibble) (b : Byte) : (s.setReg x b).sp = s.sp := rfl
@[simp] theorem setReg_dt (x : Nibble) (b : Byte) : (s.setReg x b).dt = s.dt := rfl
@[simp] theorem setReg_st (x : Nibble) (b : Byte) : (s.setReg x b).st = s.st := rfl
@[simp] theorem setReg_mem (x : Nibble) (b : Byte) : (s.setReg x b).mem = s.mem := rfl
@[simp] theorem setReg_disp (x : Nibble) (b : Byte) : (s.setReg x b).disp = s.disp := rfl
@[simp] theorem setReg_run (x : Nibble) (b : Byte) : (s.setReg x b).run = s.run := rfl
@[simp] theorem setReg_fault (x : Nibble) (b : Byte) : (s.setReg x b).fault = s.fault := rfl
@[simp] theorem setReg_params (x : Nibble) (b : Byte) : (s.setReg x b).params = s.params := rfl
@[simp] theorem setReg_keys (x : Nibble) (b : Byte) : (s.setReg x b).keys = s.keys := rfl
@[simp] theorem setReg_pending (x : Nibble) (b : Byte) : (s.setReg x b).pending = s.pending := rfl
@[simp] theorem setReg_eventIx (x : Nibble) (b : Byte) : (s.setReg x b).eventIx = s.eventIx := rfl
@[simp] theorem setReg_randIx (x : Nibble) (b : Byte) : (s.setReg x b).randIx = s.randIx := rfl
@[simp] theorem setReg_dispOut (x : Nibble) (b : Byte) : (s.setReg x b).dispOut = s.dispOut := rfl
@[simp] theorem setReg_out (x : Nibble) (b : Byte) : (s.setReg x b).out = s.out := rfl

/-! `State.setI` -/

@[simp] theorem setI_v (a : Word) : (s.setI a).v = s.v := rfl
@[simp] theorem setI_i (a : Word) : (s.setI a).i = a := rfl
@[simp] theorem setI_pc (a : Word) : (s.setI a).pc = s.pc := rfl
@[simp] theorem setI_stack (a : Word) : (s.setI a).stack = s.stack := rfl
@[simp] theorem setI_sp (a : Word) : (s.setI a).sp = s.sp := rfl
@[simp] theorem setI_dt (a : Word) : (s.setI a).dt = s.dt := rfl
@[simp] theorem setI_st (a : Word) : (s.setI a).st = s.st := rfl
@[simp] theorem setI_mem (a : Word) : (s.setI a).mem = s.mem := rfl
@[simp] theorem setI_disp (a : Word) : (s.setI a).disp = s.disp := rfl
@[simp] theorem setI_run (a : Word) : (s.setI a).run = s.run := rfl
@[simp] theorem setI_fault (a : Word) : (s.setI a).fault = s.fault := rfl
@[simp] theorem setI_params (a : Word) : (s.setI a).params = s.params := rfl
@[simp] theorem setI_keys (a : Word) : (s.setI a).keys = s.keys := rfl
@[simp] theorem setI_pending (a : Word) : (s.setI a).pending = s.pending := rfl
@[simp] theorem setI_eventIx (a : Word) : (s.setI a).eventIx = s.eventIx := rfl
@[simp] theorem setI_randIx (a : Word) : (s.setI a).randIx = s.randIx := rfl
@[simp] theorem setI_dispOut (a : Word) : (s.setI a).dispOut = s.dispOut := rfl
@[simp] theorem setI_out (a : Word) : (s.setI a).out = s.out := rfl
@[simp] theorem setI_reg (a : Word) (r : Nibble) : (s.setI a).reg r = s.reg r := rfl

/-! `State.setPc` -/

@[simp] theorem setPc_v (a : Word) : (s.setPc a).v = s.v := rfl
@[simp] theorem setPc_i (a : Word) : (s.setPc a).i = s.i := rfl
@[simp] theorem setPc_pc (a : Word) : (s.setPc a).pc = a := rfl
@[simp] theorem setPc_stack (a : Word) : (s.setPc a).stack = s.stack := rfl
@[simp] theorem setPc_sp (a : Word) : (s.setPc a).sp = s.sp := rfl
@[simp] theorem setPc_dt (a : Word) : (s.setPc a).dt = s.dt := rfl
@[simp] theorem setPc_st (a : Word) : (s.setPc a).st = s.st := rfl
@[simp] theorem setPc_mem (a : Word) : (s.setPc a).mem = s.mem := rfl
@[simp] theorem setPc_disp (a : Word) : (s.setPc a).disp = s.disp := rfl
@[simp] theorem setPc_run (a : Word) : (s.setPc a).run = s.run := rfl
@[simp] theorem setPc_fault (a : Word) : (s.setPc a).fault = s.fault := rfl
@[simp] theorem setPc_params (a : Word) : (s.setPc a).params = s.params := rfl
@[simp] theorem setPc_keys (a : Word) : (s.setPc a).keys = s.keys := rfl
@[simp] theorem setPc_pending (a : Word) : (s.setPc a).pending = s.pending := rfl
@[simp] theorem setPc_eventIx (a : Word) : (s.setPc a).eventIx = s.eventIx := rfl
@[simp] theorem setPc_randIx (a : Word) : (s.setPc a).randIx = s.randIx := rfl
@[simp] theorem setPc_dispOut (a : Word) : (s.setPc a).dispOut = s.dispOut := rfl
@[simp] theorem setPc_out (a : Word) : (s.setPc a).out = s.out := rfl
@[simp] theorem setPc_reg (a : Word) (r : Nibble) : (s.setPc a).reg r = s.reg r := rfl

/-! `State.advance` -/

@[simp] theorem advance_v : (s.advance).v = s.v := rfl
@[simp] theorem advance_i : (s.advance).i = s.i := rfl
@[simp] theorem advance_pc : (s.advance).pc = s.pc + 2 := rfl
@[simp] theorem advance_stack : (s.advance).stack = s.stack := rfl
@[simp] theorem advance_sp : (s.advance).sp = s.sp := rfl
@[simp] theorem advance_dt : (s.advance).dt = s.dt := rfl
@[simp] theorem advance_st : (s.advance).st = s.st := rfl
@[simp] theorem advance_mem : (s.advance).mem = s.mem := rfl
@[simp] theorem advance_disp : (s.advance).disp = s.disp := rfl
@[simp] theorem advance_run : (s.advance).run = s.run := rfl
@[simp] theorem advance_fault : (s.advance).fault = s.fault := rfl
@[simp] theorem advance_params : (s.advance).params = s.params := rfl
@[simp] theorem advance_keys : (s.advance).keys = s.keys := rfl
@[simp] theorem advance_pending : (s.advance).pending = s.pending := rfl
@[simp] theorem advance_eventIx : (s.advance).eventIx = s.eventIx := rfl
@[simp] theorem advance_randIx : (s.advance).randIx = s.randIx := rfl
@[simp] theorem advance_dispOut : (s.advance).dispOut = s.dispOut := rfl
@[simp] theorem advance_out : (s.advance).out = s.out := rfl
@[simp] theorem advance_reg (r : Nibble) : (s.advance).reg r = s.reg r := rfl

/-! `State.setMem` -/

@[simp] theorem setMem_v (m : Memory) : (s.setMem m).v = s.v := rfl
@[simp] theorem setMem_i (m : Memory) : (s.setMem m).i = s.i := rfl
@[simp] theorem setMem_pc (m : Memory) : (s.setMem m).pc = s.pc := rfl
@[simp] theorem setMem_stack (m : Memory) : (s.setMem m).stack = s.stack := rfl
@[simp] theorem setMem_sp (m : Memory) : (s.setMem m).sp = s.sp := rfl
@[simp] theorem setMem_dt (m : Memory) : (s.setMem m).dt = s.dt := rfl
@[simp] theorem setMem_st (m : Memory) : (s.setMem m).st = s.st := rfl
@[simp] theorem setMem_mem (m : Memory) : (s.setMem m).mem = m := rfl
@[simp] theorem setMem_disp (m : Memory) : (s.setMem m).disp = s.disp := rfl
@[simp] theorem setMem_run (m : Memory) : (s.setMem m).run = s.run := rfl
@[simp] theorem setMem_fault (m : Memory) : (s.setMem m).fault = s.fault := rfl
@[simp] theorem setMem_params (m : Memory) : (s.setMem m).params = s.params := rfl
@[simp] theorem setMem_keys (m : Memory) : (s.setMem m).keys = s.keys := rfl
@[simp] theorem setMem_pending (m : Memory) : (s.setMem m).pending = s.pending := rfl
@[simp] theorem setMem_eventIx (m : Memory) : (s.setMem m).eventIx = s.eventIx := rfl
@[simp] theorem setMem_randIx (m : Memory) : (s.setMem m).randIx = s.randIx := rfl
@[simp] theorem setMem_dispOut (m : Memory) : (s.setMem m).dispOut = s.dispOut := rfl
@[simp] theorem setMem_out (m : Memory) : (s.setMem m).out = s.out := rfl
@[simp] theorem setMem_reg (m : Memory) (r : Nibble) : (s.setMem m).reg r = s.reg r := rfl

/-! `State.setDisp` -/

@[simp] theorem setDisp_v (d : Display) : (s.setDisp d).v = s.v := rfl
@[simp] theorem setDisp_i (d : Display) : (s.setDisp d).i = s.i := rfl
@[simp] theorem setDisp_pc (d : Display) : (s.setDisp d).pc = s.pc := rfl
@[simp] theorem setDisp_stack (d : Display) : (s.setDisp d).stack = s.stack := rfl
@[simp] theorem setDisp_sp (d : Display) : (s.setDisp d).sp = s.sp := rfl
@[simp] theorem setDisp_dt (d : Display) : (s.setDisp d).dt = s.dt := rfl
@[simp] theorem setDisp_st (d : Display) : (s.setDisp d).st = s.st := rfl
@[simp] theorem setDisp_mem (d : Display) : (s.setDisp d).mem = s.mem := rfl
@[simp] theorem setDisp_disp (d : Display) : (s.setDisp d).disp = d := rfl
@[simp] theorem setDisp_run (d : Display) : (s.setDisp d).run = s.run := rfl
@[simp] theorem setDisp_fault (d : Display) : (s.setDisp d).fault = s.fault := rfl
@[simp] theorem setDisp_params (d : Display) : (s.setDisp d).params = s.params := rfl
@[simp] theorem setDisp_keys (d : Display) : (s.setDisp d).keys = s.keys := rfl
@[simp] theorem setDisp_pending (d : Display) : (s.setDisp d).pending = s.pending := rfl
@[simp] theorem setDisp_eventIx (d : Display) : (s.setDisp d).eventIx = s.eventIx := rfl
@[simp] theorem setDisp_randIx (d : Display) : (s.setDisp d).randIx = s.randIx := rfl
@[simp] theorem setDisp_dispOut (d : Display) : (s.setDisp d).dispOut = s.dispOut := rfl
@[simp] theorem setDisp_out (d : Display) : (s.setDisp d).out = s.out := rfl
@[simp] theorem setDisp_reg (d : Display) (r : Nibble) : (s.setDisp d).reg r = s.reg r := rfl

/-! `State.countDraw` -/

@[simp] theorem countDraw_v : (s.countDraw).v = s.v := rfl
@[simp] theorem countDraw_i : (s.countDraw).i = s.i := rfl
@[simp] theorem countDraw_pc : (s.countDraw).pc = s.pc := rfl
@[simp] theorem countDraw_stack : (s.countDraw).stack = s.stack := rfl
@[simp] theorem countDraw_sp : (s.countDraw).sp = s.sp := rfl
@[simp] theorem countDraw_dt : (s.countDraw).dt = s.dt := rfl
@[simp] theorem countDraw_st : (s.countDraw).st = s.st := rfl
@[simp] theorem countDraw_mem : (s.countDraw).mem = s.mem := rfl
@[simp] theorem countDraw_disp : (s.countDraw).disp = s.disp := rfl
@[simp] theorem countDraw_run : (s.countDraw).run = s.run := rfl
@[simp] theorem countDraw_fault : (s.countDraw).fault = s.fault := rfl
@[simp] theorem countDraw_params : (s.countDraw).params = s.params := rfl
@[simp] theorem countDraw_keys : (s.countDraw).keys = s.keys := rfl
@[simp] theorem countDraw_pending : (s.countDraw).pending = s.pending := rfl
@[simp] theorem countDraw_eventIx : (s.countDraw).eventIx = s.eventIx := rfl
@[simp] theorem countDraw_randIx : (s.countDraw).randIx = s.randIx + 1 := rfl
@[simp] theorem countDraw_dispOut : (s.countDraw).dispOut = s.dispOut := rfl
@[simp] theorem countDraw_out : (s.countDraw).out = s.out := rfl
@[simp] theorem countDraw_reg (r : Nibble) : (s.countDraw).reg r = s.reg r := rfl

/-! `State.setDt` -/

@[simp] theorem setDt_v (b : Byte) : (s.setDt b).v = s.v := rfl
@[simp] theorem setDt_i (b : Byte) : (s.setDt b).i = s.i := rfl
@[simp] theorem setDt_pc (b : Byte) : (s.setDt b).pc = s.pc := rfl
@[simp] theorem setDt_stack (b : Byte) : (s.setDt b).stack = s.stack := rfl
@[simp] theorem setDt_sp (b : Byte) : (s.setDt b).sp = s.sp := rfl
@[simp] theorem setDt_dt (b : Byte) : (s.setDt b).dt = b := rfl
@[simp] theorem setDt_st (b : Byte) : (s.setDt b).st = s.st := rfl
@[simp] theorem setDt_mem (b : Byte) : (s.setDt b).mem = s.mem := rfl
@[simp] theorem setDt_disp (b : Byte) : (s.setDt b).disp = s.disp := rfl
@[simp] theorem setDt_run (b : Byte) : (s.setDt b).run = s.run := rfl
@[simp] theorem setDt_fault (b : Byte) : (s.setDt b).fault = s.fault := rfl
@[simp] theorem setDt_params (b : Byte) : (s.setDt b).params = s.params := rfl
@[simp] theorem setDt_keys (b : Byte) : (s.setDt b).keys = s.keys := rfl
@[simp] theorem setDt_pending (b : Byte) : (s.setDt b).pending = s.pending := rfl
@[simp] theorem setDt_eventIx (b : Byte) : (s.setDt b).eventIx = s.eventIx := rfl
@[simp] theorem setDt_randIx (b : Byte) : (s.setDt b).randIx = s.randIx := rfl
@[simp] theorem setDt_dispOut (b : Byte) : (s.setDt b).dispOut = s.dispOut := rfl
@[simp] theorem setDt_out (b : Byte) : (s.setDt b).out = s.out := rfl
@[simp] theorem setDt_reg (b : Byte) (r : Nibble) : (s.setDt b).reg r = s.reg r := rfl

/-! `State.setSt` -/

@[simp] theorem setSt_v (b : Byte) : (s.setSt b).v = s.v := rfl
@[simp] theorem setSt_i (b : Byte) : (s.setSt b).i = s.i := rfl
@[simp] theorem setSt_pc (b : Byte) : (s.setSt b).pc = s.pc := rfl
@[simp] theorem setSt_stack (b : Byte) : (s.setSt b).stack = s.stack := rfl
@[simp] theorem setSt_sp (b : Byte) : (s.setSt b).sp = s.sp := rfl
@[simp] theorem setSt_dt (b : Byte) : (s.setSt b).dt = s.dt := rfl
@[simp] theorem setSt_st (b : Byte) : (s.setSt b).st = b := rfl
@[simp] theorem setSt_mem (b : Byte) : (s.setSt b).mem = s.mem := rfl
@[simp] theorem setSt_disp (b : Byte) : (s.setSt b).disp = s.disp := rfl
@[simp] theorem setSt_run (b : Byte) : (s.setSt b).run = s.run := rfl
@[simp] theorem setSt_fault (b : Byte) : (s.setSt b).fault = s.fault := rfl
@[simp] theorem setSt_params (b : Byte) : (s.setSt b).params = s.params := rfl
@[simp] theorem setSt_keys (b : Byte) : (s.setSt b).keys = s.keys := rfl
@[simp] theorem setSt_pending (b : Byte) : (s.setSt b).pending = s.pending := rfl
@[simp] theorem setSt_eventIx (b : Byte) : (s.setSt b).eventIx = s.eventIx := rfl
@[simp] theorem setSt_randIx (b : Byte) : (s.setSt b).randIx = s.randIx := rfl
@[simp] theorem setSt_dispOut (b : Byte) : (s.setSt b).dispOut = s.dispOut := rfl
@[simp] theorem setSt_out (b : Byte) : (s.setSt b).out = s.out := rfl
@[simp] theorem setSt_reg (b : Byte) (r : Nibble) : (s.setSt b).reg r = s.reg r := rfl

/-! `State.setKeys` -/

@[simp] theorem setKeys_v (h : BitVec 16) : (s.setKeys h).v = s.v := rfl
@[simp] theorem setKeys_i (h : BitVec 16) : (s.setKeys h).i = s.i := rfl
@[simp] theorem setKeys_pc (h : BitVec 16) : (s.setKeys h).pc = s.pc := rfl
@[simp] theorem setKeys_stack (h : BitVec 16) : (s.setKeys h).stack = s.stack := rfl
@[simp] theorem setKeys_sp (h : BitVec 16) : (s.setKeys h).sp = s.sp := rfl
@[simp] theorem setKeys_dt (h : BitVec 16) : (s.setKeys h).dt = s.dt := rfl
@[simp] theorem setKeys_st (h : BitVec 16) : (s.setKeys h).st = s.st := rfl
@[simp] theorem setKeys_mem (h : BitVec 16) : (s.setKeys h).mem = s.mem := rfl
@[simp] theorem setKeys_disp (h : BitVec 16) : (s.setKeys h).disp = s.disp := rfl
@[simp] theorem setKeys_run (h : BitVec 16) : (s.setKeys h).run = s.run := rfl
@[simp] theorem setKeys_fault (h : BitVec 16) : (s.setKeys h).fault = s.fault := rfl
@[simp] theorem setKeys_params (h : BitVec 16) : (s.setKeys h).params = s.params := rfl
@[simp] theorem setKeys_keys (h : BitVec 16) : (s.setKeys h).keys = h := rfl
@[simp] theorem setKeys_pending (h : BitVec 16) : (s.setKeys h).pending = s.pending := rfl
@[simp] theorem setKeys_eventIx (h : BitVec 16) : (s.setKeys h).eventIx = s.eventIx := rfl
@[simp] theorem setKeys_randIx (h : BitVec 16) : (s.setKeys h).randIx = s.randIx := rfl
@[simp] theorem setKeys_dispOut (h : BitVec 16) : (s.setKeys h).dispOut = s.dispOut := rfl
@[simp] theorem setKeys_out (h : BitVec 16) : (s.setKeys h).out = Output.silent := rfl
@[simp] theorem setKeys_reg (h : BitVec 16) (r : Nibble) : (s.setKeys h).reg r = s.reg r := rfl

/-! `State.publish` -/

@[simp] theorem publish_v (o : Output) : (s.publish o).v = s.v := rfl
@[simp] theorem publish_i (o : Output) : (s.publish o).i = s.i := rfl
@[simp] theorem publish_pc (o : Output) : (s.publish o).pc = s.pc := rfl
@[simp] theorem publish_stack (o : Output) : (s.publish o).stack = s.stack := rfl
@[simp] theorem publish_sp (o : Output) : (s.publish o).sp = s.sp := rfl
@[simp] theorem publish_dt (o : Output) : (s.publish o).dt = s.dt := rfl
@[simp] theorem publish_st (o : Output) : (s.publish o).st = s.st := rfl
@[simp] theorem publish_mem (o : Output) : (s.publish o).mem = s.mem := rfl
@[simp] theorem publish_disp (o : Output) : (s.publish o).disp = s.disp := rfl
@[simp] theorem publish_run (o : Output) : (s.publish o).run = s.run := rfl
@[simp] theorem publish_fault (o : Output) : (s.publish o).fault = s.fault := rfl
@[simp] theorem publish_params (o : Output) : (s.publish o).params = s.params := rfl
@[simp] theorem publish_keys (o : Output) : (s.publish o).keys = s.keys := rfl
@[simp] theorem publish_pending (o : Output) : (s.publish o).pending = s.pending := rfl
@[simp] theorem publish_eventIx (o : Output) : (s.publish o).eventIx = s.eventIx := rfl
@[simp] theorem publish_randIx (o : Output) : (s.publish o).randIx = s.randIx := rfl
@[simp] theorem publish_dispOut (o : Output) : (s.publish o).dispOut = s.disp := rfl
@[simp] theorem publish_out (o : Output) : (s.publish o).out = o := rfl
@[simp] theorem publish_reg (o : Output) (r : Nibble) : (s.publish o).reg r = s.reg r := rfl

/-! `State.drive` -/

@[simp] theorem drive_v (o : Output) : (s.drive o).v = s.v := rfl
@[simp] theorem drive_i (o : Output) : (s.drive o).i = s.i := rfl
@[simp] theorem drive_pc (o : Output) : (s.drive o).pc = s.pc := rfl
@[simp] theorem drive_stack (o : Output) : (s.drive o).stack = s.stack := rfl
@[simp] theorem drive_sp (o : Output) : (s.drive o).sp = s.sp := rfl
@[simp] theorem drive_dt (o : Output) : (s.drive o).dt = s.dt := rfl
@[simp] theorem drive_st (o : Output) : (s.drive o).st = s.st := rfl
@[simp] theorem drive_mem (o : Output) : (s.drive o).mem = s.mem := rfl
@[simp] theorem drive_disp (o : Output) : (s.drive o).disp = s.disp := rfl
@[simp] theorem drive_run (o : Output) : (s.drive o).run = s.run := rfl
@[simp] theorem drive_fault (o : Output) : (s.drive o).fault = s.fault := rfl
@[simp] theorem drive_params (o : Output) : (s.drive o).params = s.params := rfl
@[simp] theorem drive_keys (o : Output) : (s.drive o).keys = s.keys := rfl
@[simp] theorem drive_pending (o : Output) : (s.drive o).pending = s.pending := rfl
@[simp] theorem drive_eventIx (o : Output) : (s.drive o).eventIx = s.eventIx := rfl
@[simp] theorem drive_randIx (o : Output) : (s.drive o).randIx = s.randIx := rfl
@[simp] theorem drive_dispOut (o : Output) : (s.drive o).dispOut = s.dispOut := rfl
@[simp] theorem drive_out (o : Output) : (s.drive o).out = o := rfl
@[simp] theorem drive_reg (o : Output) (r : Nibble) : (s.drive o).reg r = s.reg r := rfl

/-! `State.start` -/

@[simp] theorem start_v : (s.start).v = s.v := rfl
@[simp] theorem start_i : (s.start).i = s.i := rfl
@[simp] theorem start_pc : (s.start).pc = s.pc := rfl
@[simp] theorem start_stack : (s.start).stack = s.stack := rfl
@[simp] theorem start_sp : (s.start).sp = s.sp := rfl
@[simp] theorem start_dt : (s.start).dt = s.dt := rfl
@[simp] theorem start_st : (s.start).st = s.st := rfl
@[simp] theorem start_mem : (s.start).mem = s.mem := rfl
@[simp] theorem start_disp : (s.start).disp = s.disp := rfl
@[simp] theorem start_run : (s.start).run = .running := rfl
@[simp] theorem start_fault : (s.start).fault = s.fault := rfl
@[simp] theorem start_params : (s.start).params = s.params := rfl
@[simp] theorem start_keys : (s.start).keys = s.keys := rfl
@[simp] theorem start_pending : (s.start).pending = s.pending := rfl
@[simp] theorem start_eventIx : (s.start).eventIx = s.eventIx := rfl
@[simp] theorem start_randIx : (s.start).randIx = s.randIx := rfl
@[simp] theorem start_dispOut : (s.start).dispOut = s.dispOut := rfl
@[simp] theorem start_out : (s.start).out = Output.silent := rfl
@[simp] theorem start_reg (r : Nibble) : (s.start).reg r = s.reg r := rfl

/-! `State.halt` -/

@[simp] theorem halt_v : (s.halt).v = s.v := rfl
@[simp] theorem halt_i : (s.halt).i = s.i := rfl
@[simp] theorem halt_pc : (s.halt).pc = s.pc := rfl
@[simp] theorem halt_stack : (s.halt).stack = s.stack := rfl
@[simp] theorem halt_sp : (s.halt).sp = s.sp := rfl
@[simp] theorem halt_dt : (s.halt).dt = s.dt := rfl
@[simp] theorem halt_st : (s.halt).st = s.st := rfl
@[simp] theorem halt_mem : (s.halt).mem = s.mem := rfl
@[simp] theorem halt_disp : (s.halt).disp = s.disp := rfl
@[simp] theorem halt_run : (s.halt).run = .stopped := rfl
@[simp] theorem halt_fault : (s.halt).fault = s.fault := rfl
@[simp] theorem halt_params : (s.halt).params = s.params := rfl
@[simp] theorem halt_keys : (s.halt).keys = s.keys := rfl
@[simp] theorem halt_pending : (s.halt).pending = s.pending := rfl
@[simp] theorem halt_eventIx : (s.halt).eventIx = s.eventIx := rfl
@[simp] theorem halt_randIx : (s.halt).randIx = s.randIx := rfl
@[simp] theorem halt_dispOut : (s.halt).dispOut = s.dispOut := rfl
@[simp] theorem halt_out : (s.halt).out = Output.silent := rfl
@[simp] theorem halt_reg (r : Nibble) : (s.halt).reg r = s.reg r := rfl

/-! `State.takeFault` -/

@[simp] theorem takeFault_v (c : Cause) (w a : Word) : (s.takeFault c w a).v = s.v := rfl
@[simp] theorem takeFault_i (c : Cause) (w a : Word) : (s.takeFault c w a).i = s.i := rfl
@[simp] theorem takeFault_pc (c : Cause) (w a : Word) : (s.takeFault c w a).pc = s.pc := rfl
@[simp] theorem takeFault_stack (c : Cause) (w a : Word) : (s.takeFault c w a).stack = s.stack := rfl
@[simp] theorem takeFault_sp (c : Cause) (w a : Word) : (s.takeFault c w a).sp = s.sp := rfl
@[simp] theorem takeFault_dt (c : Cause) (w a : Word) : (s.takeFault c w a).dt = s.dt := rfl
@[simp] theorem takeFault_st (c : Cause) (w a : Word) : (s.takeFault c w a).st = s.st := rfl
@[simp] theorem takeFault_mem (c : Cause) (w a : Word) : (s.takeFault c w a).mem = s.mem := rfl
@[simp] theorem takeFault_disp (c : Cause) (w a : Word) : (s.takeFault c w a).disp = s.disp := rfl
@[simp] theorem takeFault_run (c : Cause) (w a : Word) : (s.takeFault c w a).run = s.run := rfl
@[simp] theorem takeFault_fault (c : Cause) (w a : Word) : (s.takeFault c w a).fault = ⟨c, s.pc, w, a⟩ := rfl
@[simp] theorem takeFault_params (c : Cause) (w a : Word) : (s.takeFault c w a).params = s.params := rfl
@[simp] theorem takeFault_keys (c : Cause) (w a : Word) : (s.takeFault c w a).keys = s.keys := rfl
@[simp] theorem takeFault_pending (c : Cause) (w a : Word) : (s.takeFault c w a).pending = s.pending := rfl
@[simp] theorem takeFault_eventIx (c : Cause) (w a : Word) : (s.takeFault c w a).eventIx = s.eventIx := rfl
@[simp] theorem takeFault_randIx (c : Cause) (w a : Word) : (s.takeFault c w a).randIx = s.randIx := rfl
@[simp] theorem takeFault_dispOut (c : Cause) (w a : Word) : (s.takeFault c w a).dispOut = s.dispOut := rfl
@[simp] theorem takeFault_out (c : Cause) (w a : Word) : (s.takeFault c w a).out = Output.silent := rfl
@[simp] theorem takeFault_reg (c : Cause) (w a : Word) (r : Nibble) : (s.takeFault c w a).reg r = s.reg r := rfl

/-! `State.skipUnknown` -/

@[simp] theorem skipUnknown_v (w : Word) : (s.skipUnknown w).v = s.v := rfl
@[simp] theorem skipUnknown_i (w : Word) : (s.skipUnknown w).i = s.i := rfl
@[simp] theorem skipUnknown_pc (w : Word) : (s.skipUnknown w).pc = s.pc + 2 := rfl
@[simp] theorem skipUnknown_stack (w : Word) : (s.skipUnknown w).stack = s.stack := rfl
@[simp] theorem skipUnknown_sp (w : Word) : (s.skipUnknown w).sp = s.sp := rfl
@[simp] theorem skipUnknown_dt (w : Word) : (s.skipUnknown w).dt = s.dt := rfl
@[simp] theorem skipUnknown_st (w : Word) : (s.skipUnknown w).st = s.st := rfl
@[simp] theorem skipUnknown_mem (w : Word) : (s.skipUnknown w).mem = s.mem := rfl
@[simp] theorem skipUnknown_disp (w : Word) : (s.skipUnknown w).disp = s.disp := rfl
@[simp] theorem skipUnknown_run (w : Word) : (s.skipUnknown w).run = s.run := rfl
@[simp] theorem skipUnknown_fault (w : Word) : (s.skipUnknown w).fault = s.fault := rfl
@[simp] theorem skipUnknown_params (w : Word) : (s.skipUnknown w).params = s.params := rfl
@[simp] theorem skipUnknown_keys (w : Word) : (s.skipUnknown w).keys = s.keys := rfl
@[simp] theorem skipUnknown_pending (w : Word) : (s.skipUnknown w).pending = s.pending := rfl
@[simp] theorem skipUnknown_eventIx (w : Word) : (s.skipUnknown w).eventIx = s.eventIx := rfl
@[simp] theorem skipUnknown_randIx (w : Word) : (s.skipUnknown w).randIx = s.randIx := rfl
@[simp] theorem skipUnknown_dispOut (w : Word) : (s.skipUnknown w).dispOut = s.disp := rfl
@[simp] theorem skipUnknown_out (w : Word) : (s.skipUnknown w).out = Output.unknownOpcode s.pc w := rfl
@[simp] theorem skipUnknown_reg (w : Word) (r : Nibble) : (s.skipUnknown w).reg r = s.reg r := rfl

/-! `State.resetBlock` -/

@[simp] theorem resetBlock_v : (s.resetBlock).v = Vector.replicate 16 0 := rfl
@[simp] theorem resetBlock_i : (s.resetBlock).i = 0 := rfl
@[simp] theorem resetBlock_pc : (s.resetBlock).pc = 0x0200 := rfl
@[simp] theorem resetBlock_stack : (s.resetBlock).stack = Vector.replicate 16 0 := rfl
@[simp] theorem resetBlock_sp : (s.resetBlock).sp = 0 := rfl
@[simp] theorem resetBlock_dt : (s.resetBlock).dt = 0 := rfl
@[simp] theorem resetBlock_st : (s.resetBlock).st = 0 := rfl
@[simp] theorem resetBlock_mem : (s.resetBlock).mem = [] := rfl
@[simp] theorem resetBlock_disp : (s.resetBlock).disp = Display.blank := rfl
@[simp] theorem resetBlock_run : (s.resetBlock).run = s.run := rfl
@[simp] theorem resetBlock_fault : (s.resetBlock).fault = FaultRecord.clear := rfl
@[simp] theorem resetBlock_params : (s.resetBlock).params = s.params := rfl
@[simp] theorem resetBlock_keys : (s.resetBlock).keys = s.keys := rfl
@[simp] theorem resetBlock_pending : (s.resetBlock).pending = s.pending := rfl
@[simp] theorem resetBlock_eventIx : (s.resetBlock).eventIx = s.eventIx := rfl
@[simp] theorem resetBlock_randIx : (s.resetBlock).randIx = s.randIx := rfl
@[simp] theorem resetBlock_dispOut : (s.resetBlock).dispOut = s.dispOut := rfl
@[simp] theorem resetBlock_out : (s.resetBlock).out = s.out := rfl

end Sys2Proof.Machine
end

