-- ==== Sys2Proof/Laws/Ops.lean ====
section
/-!
SUPPORT. What the shared operations over registers, pc, stack, flags and the host interface can do,
each said once.
-/

namespace Sys2Proof.Machine

/-! ### Registers -/

theorem reg_setReg (s : State) (x r : Nibble) (b : Byte) :
    (s.setReg x b).reg r = if r = x then b else s.reg r := by
  unfold State.setReg State.reg
  rw [Vector.getElem_set]
  by_cases h : r = x
  · simp [h]
  · have : x.toNat ≠ r.toNat := fun h' => h (BitVec.eq_of_toNat_eq h'.symm)
    simp [h, this]

@[simp] theorem reg_setReg_same (s : State) (x : Nibble) (b : Byte) :
    (s.setReg x b).reg x = b := by simp [reg_setReg]

@[simp] theorem reg_resetBlock (s : State) (r : Nibble) : s.resetBlock.reg r = 0 := by
  simp [State.reg]

/-- The result goes to `V[x]` and the flag to VF, which wins when `x = F` (R171). -/
theorem reg_setResultFlag (s : State) (x r : Nibble) (b : Byte) (f : Bool) :
    (s.setResultFlag x b f).reg r = if r = vf then flagByte f else if r = x then b else s.reg r := by
  simp [State.setResultFlag, reg_setReg]

/-- A logic operation's result, with VF reset when the quirk says so (R161 to R163). -/
theorem reg_setLogicResult (s : State) (x r : Nibble) (b : Byte) :
    (s.setLogicResult x b).reg r =
      if s.params.quirkLogicVfReset = true ∧ r = vf then 0 else if r = x then b else s.reg r := by
  unfold State.setLogicResult
  split <;> simp_all [reg_setReg]

/-- Registers written from a list: `V[k + j]` takes byte `j`. -/
theorem reg_setRegs (s : State) (k : Nat) (bs : List Byte) (h : k + bs.length ≤ 16) (r : Nibble) :
    (s.setRegs k bs).reg r =
      if k ≤ r.toNat ∧ r.toNat < k + bs.length then bs.getD (r.toNat - k) 0 else s.reg r := by
  induction bs generalizing s k with
  | nil => simp [State.setRegs]
  | cons b bs ih =>
    simp only [List.length_cons] at h
    rw [State.setRegs, ih _ _ (by omega), reg_setReg]
    have hk : (BitVec.ofNat 4 k).toNat = k := by simp; omega
    by_cases h1 : r = BitVec.ofNat 4 k
    · have hr : r.toNat = k := by rw [h1, hk]
      rw [if_neg (by omega), if_pos h1, if_pos (by simp; omega)]
      simp [hr]
    · have hr : r.toNat ≠ k := fun h' => h1 (BitVec.eq_of_toNat_eq (by rw [h', hk]))
      by_cases h2 : k + 1 ≤ r.toNat ∧ r.toNat < k + 1 + bs.length
      · have h3 : r.toNat - k = r.toNat - (k + 1) + 1 := by omega
        rw [if_pos h2, if_pos (by simp; omega), h3]
        simp
      · rw [if_neg h2, if_neg h1, if_neg (by simp; omega)]

/-- Everything but the registers is as before a register write, whatever shape the write has. -/
theorem setRegs_eq (s : State) (k : Nat) (bs : List Byte) :
    s.setRegs k bs = { s with v := (s.setRegs k bs).v } := by
  induction bs generalizing s k with
  | nil => rfl
  | cons b bs ih => rw [State.setRegs, ih]; rfl

theorem setResultFlag_eq (s : State) (x : Nibble) (b : Byte) (f : Bool) :
    s.setResultFlag x b f = { s with v := (s.setResultFlag x b f).v } := rfl

theorem setLogicResult_eq (s : State) (x : Nibble) (b : Byte) :
    s.setLogicResult x b = { s with v := (s.setLogicResult x b).v } := by
  unfold State.setLogicResult; split <;> rfl

/-! ### pc and I -/

/-- A skip changes `pc` alone (R147). -/
theorem skipIf_eq (s : State) (c : Bool) :
    s.skipIf c = s.setPc (if c then s.pc + 2 else s.pc) := by
  unfold State.skipIf; cases c <;> rfl

/-- The increment of `FX55` and `FX65` changes `I` alone, and only under the quirk. -/
theorem incrementI_eq (s : State) (x : Nibble) :
    s.incrementI x = s.setI (if s.params.quirkLoadStoreIncI then
      s.i + BitVec.ofNat 16 (x.toNat + 1) else s.i) := by
  unfold State.incrementI; split <;> simp_all [State.setI]

/-! ### The call stack -/

/-- A push below depth 16 writes the entry at the old depth, and nothing else (R141). -/
theorem push_of_lt {s : State} (a : Word) (h : s.sp.val < 16) :
    s.push a = some { s with stack := s.stack.set s.sp.val a h, sp := ⟨s.sp.val + 1, by omega⟩ } := by
  unfold State.push; rw [dif_pos h]

theorem push_full {s : State} (a : Word) (h : s.sp.val = 16) : s.push a = none := by
  unfold State.push; rw [dif_neg (by omega)]

/-- A pop above depth 0 answers the top entry and lowers the depth; no entry changes (R140). -/
theorem pop_of_pos {s : State} (h : 0 < s.sp.val) :
    s.pop = some (s.stack[s.sp.val - 1]'(by omega), { s with sp := ⟨s.sp.val - 1, by omega⟩ }) := by
  unfold State.pop; rw [dif_pos h]

theorem pop_empty {s : State} (h : s.sp.val = 0) : s.pop = none := by
  unfold State.pop; rw [dif_neg (by omega)]

/-! ### The keypad -/

/-- No key is held (R183). -/
theorem lowestKey_eq_none {keys : BitVec 16} : lowestKey keys = none ↔ keys = 0 := by
  unfold lowestKey
  rw [List.find?_eq_none]
  constructor
  · intro h
    ext k hk
    have := h k (List.mem_range.2 hk)
    rw [BitVec.getLsbD_eq_getElem hk] at this
    simpa using this
  · rintro rfl k _; simp

/-- The lowest-numbered held key (R183). -/
theorem lowestKey_eq_some {keys : BitVec 16} {k : Nat} (h : lowestKey keys = some k) :
    k < 16 ∧ keys.getLsbD k = true ∧ ∀ j < k, keys.getLsbD j = false := by
  unfold lowestKey at h
  rw [List.find?_range_eq_some] at h
  exact ⟨List.mem_range.1 h.2.1, by simpa using h.1, fun j hj => by simpa using h.2.2 j hj⟩

/-! ### Reset, load and the next event -/

/-- Resetting the machine at creation changes nothing (R250, R251). -/
theorem reset_resetBlock : State.reset.resetBlock = State.reset := rfl

/-- A ROM that fits is loaded into a machine that has been reset (R253). -/
theorem loadRom_ok {s : State} {rom : List Byte} (h : programBase + rom.length ≤ memSize) :
    s.loadRom rom = (s.resetBlock.setMem (Memory.writeBytes [] programBase rom)).drive
      { Output.silent with load := some .ok } := by
  unfold State.loadRom Memory.load
  rw [if_neg (by omega)]
  rfl

/-- A ROM that does not fit changes nothing (R254). -/
theorem loadRom_outOfBounds {s : State} {rom : List Byte} (h : memSize < programBase + rom.length) :
    s.loadRom rom = s.drive { Output.silent with load := some (.outOfBounds rom.length) } := by
  unfold State.loadRom Memory.load
  rw [if_pos h]

/-- Taking the next event changes only the list of pending events and its counter. -/
theorem nextEvent_eq (s : State) :
    s.nextEvent.2 = { s with pending := s.nextEvent.2.pending, eventIx := s.nextEvent.2.eventIx } := by
  unfold State.nextEvent; split <;> rfl

theorem nextEvent_pending {s : State} {e : Event} {es : List Event} (h : s.pending = e :: es) :
    s.nextEvent = (e, { s with pending := es }) := by
  unfold State.nextEvent; rw [h]

end Sys2Proof.Machine
end

