-- ==== Sys2Proof/Laws/PerInstr.lean ====
section
/-!
SUPPORT. One lemma per instruction: its word has the bits that its row of spec/opcode_table.json
fixes (R82, R90), and the row's profile is the instruction's (R2).
-/

namespace Sys2Proof.Laws

/-- The word of the instruction fits a row of the opcode table whose profile is the instruction's. -/
def FitsTable.Statement (i : Instr) : Prop :=
  ∃ r ∈ opcodeRows, r.documented = i.isDocumented ∧ encode i &&& r.mask = r.pattern

/-- How each lemma below is shown: the row, its profile, and the masked word. -/
theorem fitsTable_of_row {i : Instr} (mask pattern : Word)
    (hrow : ⟨mask, pattern, i.isDocumented⟩ ∈ opcodeRows)
    (h : encode i &&& mask = pattern) : FitsTable.Statement i := ⟨_, hrow, rfl, h⟩

theorem FitsTable.cls : FitsTable.Statement .cls :=
  fitsTable_of_row 0xFFFF 0x00E0 (by simp only [Instr.isDocumented]; decide) (by decide)

theorem FitsTable.ret : FitsTable.Statement .ret :=
  fitsTable_of_row 0xFFFF 0x00EE (by simp only [Instr.isDocumented]; decide) (by decide)

theorem FitsTable.jp (nnn : Addr) : FitsTable.Statement (.jp nnn) :=
  fitsTable_of_row 0xF000 0x1000 (by simp only [Instr.isDocumented]; decide) (by
    rw [and_mask_op, encode]; simp; decide)

theorem FitsTable.call (nnn : Addr) : FitsTable.Statement (.call nnn) :=
  fitsTable_of_row 0xF000 0x2000 (by simp only [Instr.isDocumented]; decide) (by
    rw [and_mask_op, encode]; simp; decide)

theorem FitsTable.seVxNn (x : Nibble) (nn : Byte) : FitsTable.Statement (.seVxNn x nn) :=
  fitsTable_of_row 0xF000 0x3000 (by simp only [Instr.isDocumented]; decide) (by
    rw [and_mask_op, encode]; simp; decide)

theorem FitsTable.sneVxNn (x : Nibble) (nn : Byte) : FitsTable.Statement (.sneVxNn x nn) :=
  fitsTable_of_row 0xF000 0x4000 (by simp only [Instr.isDocumented]; decide) (by
    rw [and_mask_op, encode]; simp; decide)

theorem FitsTable.seVxVy (x : Nibble) (y : Nibble) : FitsTable.Statement (.seVxVy x y) :=
  fitsTable_of_row 0xF00F 0x5000 (by simp only [Instr.isDocumented]; decide) (by
    rw [and_mask_RRF, encode]; simp; decide)

theorem FitsTable.ldVxNn (x : Nibble) (nn : Byte) : FitsTable.Statement (.ldVxNn x nn) :=
  fitsTable_of_row 0xF000 0x6000 (by simp only [Instr.isDocumented]; decide) (by
    rw [and_mask_op, encode]; simp; decide)

theorem FitsTable.addVxNn (x : Nibble) (nn : Byte) : FitsTable.Statement (.addVxNn x nn) :=
  fitsTable_of_row 0xF000 0x7000 (by simp only [Instr.isDocumented]; decide) (by
    rw [and_mask_op, encode]; simp; decide)

theorem FitsTable.ldVxVy (x : Nibble) (y : Nibble) : FitsTable.Statement (.ldVxVy x y) :=
  fitsTable_of_row 0xF00F 0x8000 (by simp only [Instr.isDocumented]; decide) (by
    rw [and_mask_RRF, encode]; simp; decide)

theorem FitsTable.orVxVy (x : Nibble) (y : Nibble) : FitsTable.Statement (.orVxVy x y) :=
  fitsTable_of_row 0xF00F 0x8001 (by simp only [Instr.isDocumented]; decide) (by
    rw [and_mask_RRF, encode]; simp; decide)

theorem FitsTable.andVxVy (x : Nibble) (y : Nibble) : FitsTable.Statement (.andVxVy x y) :=
  fitsTable_of_row 0xF00F 0x8002 (by simp only [Instr.isDocumented]; decide) (by
    rw [and_mask_RRF, encode]; simp; decide)

theorem FitsTable.xorVxVy (x : Nibble) (y : Nibble) : FitsTable.Statement (.xorVxVy x y) :=
  fitsTable_of_row 0xF00F 0x8003 (by simp only [Instr.isDocumented]; decide) (by
    rw [and_mask_RRF, encode]; simp; decide)

theorem FitsTable.addVxVy (x : Nibble) (y : Nibble) : FitsTable.Statement (.addVxVy x y) :=
  fitsTable_of_row 0xF00F 0x8004 (by simp only [Instr.isDocumented]; decide) (by
    rw [and_mask_RRF, encode]; simp; decide)

theorem FitsTable.sub (x : Nibble) (y : Nibble) : FitsTable.Statement (.sub x y) :=
  fitsTable_of_row 0xF00F 0x8005 (by simp only [Instr.isDocumented]; decide) (by
    rw [and_mask_RRF, encode]; simp; decide)

theorem FitsTable.shr (x : Nibble) (y : Nibble) : FitsTable.Statement (.shr x y) :=
  fitsTable_of_row 0xF00F 0x8006 (by simp only [Instr.isDocumented]; decide) (by
    rw [and_mask_RRF, encode]; simp; decide)

theorem FitsTable.subn (x : Nibble) (y : Nibble) : FitsTable.Statement (.subn x y) :=
  fitsTable_of_row 0xF00F 0x8007 (by simp only [Instr.isDocumented]; decide) (by
    rw [and_mask_RRF, encode]; simp; decide)

theorem FitsTable.shl (x : Nibble) (y : Nibble) : FitsTable.Statement (.shl x y) :=
  fitsTable_of_row 0xF00F 0x800E (by simp only [Instr.isDocumented]; decide) (by
    rw [and_mask_RRF, encode]; simp; decide)

theorem FitsTable.sneVxVy (x : Nibble) (y : Nibble) : FitsTable.Statement (.sneVxVy x y) :=
  fitsTable_of_row 0xF00F 0x9000 (by simp only [Instr.isDocumented]; decide) (by
    rw [and_mask_RRF, encode]; simp; decide)

theorem FitsTable.ldI (nnn : Addr) : FitsTable.Statement (.ldI nnn) :=
  fitsTable_of_row 0xF000 0xA000 (by simp only [Instr.isDocumented]; decide) (by
    rw [and_mask_op, encode]; simp; decide)

theorem FitsTable.jpV0 (nnn : Addr) : FitsTable.Statement (.jpV0 nnn) :=
  fitsTable_of_row 0xF000 0xB000 (by simp only [Instr.isDocumented]; decide) (by
    rw [and_mask_op, encode]; simp; decide)

theorem FitsTable.rnd (x : Nibble) (nn : Byte) : FitsTable.Statement (.rnd x nn) :=
  fitsTable_of_row 0xF000 0xC000 (by simp only [Instr.isDocumented]; decide) (by
    rw [and_mask_op, encode]; simp; decide)

theorem FitsTable.drw (x : Nibble) (y : Nibble) (n : Nibble) : FitsTable.Statement (.drw x y n) :=
  fitsTable_of_row 0xF000 0xD000 (by simp only [Instr.isDocumented]; decide) (by
    rw [and_mask_op, encode]; simp; decide)

theorem FitsTable.skp (x : Nibble) : FitsTable.Statement (.skp x) :=
  fitsTable_of_row 0xF0FF 0xE09E (by simp only [Instr.isDocumented]; decide) (by
    rw [and_mask_RF, encode]; simp; decide)

theorem FitsTable.sknp (x : Nibble) : FitsTable.Statement (.sknp x) :=
  fitsTable_of_row 0xF0FF 0xE0A1 (by simp only [Instr.isDocumented]; decide) (by
    rw [and_mask_RF, encode]; simp; decide)

theorem FitsTable.ldVxDt (x : Nibble) : FitsTable.Statement (.ldVxDt x) :=
  fitsTable_of_row 0xF0FF 0xF007 (by simp only [Instr.isDocumented]; decide) (by
    rw [and_mask_RF, encode]; simp; decide)

theorem FitsTable.ldVxK (x : Nibble) : FitsTable.Statement (.ldVxK x) :=
  fitsTable_of_row 0xF0FF 0xF00A (by simp only [Instr.isDocumented]; decide) (by
    rw [and_mask_RF, encode]; simp; decide)

theorem FitsTable.ldDtVx (x : Nibble) : FitsTable.Statement (.ldDtVx x) :=
  fitsTable_of_row 0xF0FF 0xF015 (by simp only [Instr.isDocumented]; decide) (by
    rw [and_mask_RF, encode]; simp; decide)

theorem FitsTable.ldStVx (x : Nibble) : FitsTable.Statement (.ldStVx x) :=
  fitsTable_of_row 0xF0FF 0xF018 (by simp only [Instr.isDocumented]; decide) (by
    rw [and_mask_RF, encode]; simp; decide)

theorem FitsTable.addIVx (x : Nibble) : FitsTable.Statement (.addIVx x) :=
  fitsTable_of_row 0xF0FF 0xF01E (by simp only [Instr.isDocumented]; decide) (by
    rw [and_mask_RF, encode]; simp; decide)

theorem FitsTable.ldFVx (x : Nibble) : FitsTable.Statement (.ldFVx x) :=
  fitsTable_of_row 0xF0FF 0xF029 (by simp only [Instr.isDocumented]; decide) (by
    rw [and_mask_RF, encode]; simp; decide)

theorem FitsTable.ldBVx (x : Nibble) : FitsTable.Statement (.ldBVx x) :=
  fitsTable_of_row 0xF0FF 0xF033 (by simp only [Instr.isDocumented]; decide) (by
    rw [and_mask_RF, encode]; simp; decide)

theorem FitsTable.ldMemVx (x : Nibble) : FitsTable.Statement (.ldMemVx x) :=
  fitsTable_of_row 0xF0FF 0xF055 (by simp only [Instr.isDocumented]; decide) (by
    rw [and_mask_RF, encode]; simp; decide)

theorem FitsTable.ldVxMem (x : Nibble) : FitsTable.Statement (.ldVxMem x) :=
  fitsTable_of_row 0xF0FF 0xF065 (by simp only [Instr.isDocumented]; decide) (by
    rw [and_mask_RF, encode]; simp; decide)

end Sys2Proof.Laws
end

