-- ==== Sys2Proof/Laws/Step.lean ====
section
/-!
SUPPORT. Everything that a transition can do, said once: the events, the engine's step with its four
ends, the tick, and the load.
-/

namespace Sys2Proof.Machine

/-- A transition is the handling of the next event on the state in which it has been taken. -/
theorem step_eq (s : State) : step s = s.nextEvent.2.handle s.nextEvent.1 := rfl

theorem step_of_event {s s' : State} {e : Event} (h : s.nextEvent = (e, s')) :
    step s = s'.handle e := by rw [step_eq, h]

/-- The state in which the next event has been taken differs in the waiting events and their
counter alone. -/
theorem taken_eq {s s' : State} {e : Event} (h : s.nextEvent = (e, s')) :
    s' = { s with pending := s'.pending, eventIx := s'.eventIx } := by
  have h' := nextEvent_eq s
  rw [h] at h'
  exact h'

/-- The engine's step when it is not enabled (R100). -/
theorem engineStep_disabled {s : State} (h : ¬ s.engineEnabled) :
    s.engineStep = .next (s.drive Output.silent) := by
  unfold State.engineStep; rw [if_neg h]

/-- The engine's step when the fetch faults (R102). -/
theorem engineStep_fetchFault {s : State} {bad : Nat} (h : s.engineEnabled)
    (hf : s.fetchWord s.pc = .error bad) :
    s.engineStep = .next (s.takeFault .invalidAddress 0 (BitVec.ofNat 16 bad)) := by
  unfold State.engineStep; rw [if_pos h, hf]

/-- The engine's step on a word that is Unknown (R106). -/
theorem engineStep_unknown {s : State} {w : Word} (h : s.engineEnabled)
    (hf : s.fetchWord s.pc = .ok w) (hd : decodeWord s.params.opcodeSet w = none) :
    s.engineStep = .next (s.skipUnknown w) := by
  unfold State.engineStep; rw [if_pos h, hf]; simp only [hd]

/-- The engine's step on an instruction (R105). -/
theorem engineStep_exec {s : State} {w : Word} {i : Instr} (h : s.engineEnabled)
    (hf : s.fetchWord s.pc = .ok w) (hd : decodeWord s.params.opcodeSet w = some i) :
    s.engineStep = exec i s := by
  unfold State.engineStep; rw [if_pos h, hf]; simp only [hd]

/-- The engine's step has these four ends and no other (R100, R101). -/
theorem engineStep_cases {s t : State} (h : s.engineStep = .next t) :
    (¬ s.engineEnabled ∧ t = s.drive Output.silent) ∨
      (s.engineEnabled ∧ 0xFFE < s.pc.toNat ∧
        t = s.takeFault .invalidAddress 0 (BitVec.ofNat 16 (max s.pc.toNat 0x1000))) ∨
      (s.engineEnabled ∧ s.pc.toNat ≤ 0xFFE ∧ ∃ w, s.fetchWord s.pc = .ok w ∧
        decodeWord s.params.opcodeSet w = none ∧ t = s.skipUnknown w) ∨
      (s.engineEnabled ∧ s.pc.toNat ≤ 0xFFE ∧ ∃ w i, s.fetchWord s.pc = .ok w ∧
        decodeWord s.params.opcodeSet w = some i ∧ exec i s = .next t) := by
  by_cases he : s.engineEnabled
  · rcases fetchWord_cases s s.pc with ⟨hp, hf⟩ | ⟨hp, hf⟩
    · cases hd : decodeWord s.params.opcodeSet
          (joinBytes (Memory.read s.mem s.pc.toNat) (Memory.read s.mem (s.pc.toNat + 1))) with
      | none =>
        rw [engineStep_unknown he hf hd] at h
        cases h
        exact .inr (.inr (.inl ⟨he, hp, _, hf, hd, rfl⟩))
      | some i =>
        rw [engineStep_exec he hf hd] at h
        exact .inr (.inr (.inr ⟨he, hp, _, i, hf, hd, h⟩))
    · rw [engineStep_fetchFault he hf] at h
      cases h
      exact .inr (.inl ⟨he, hp, rfl⟩)
  · rw [engineStep_disabled he] at h
    cases h
    exact .inl ⟨he, rfl⟩

/-- A tick while RUNNING (R225, R226). -/
theorem tick_running {s : State} (h : s.run = .running) :
    s.tick = { s with dt := countDown s.dt, st := countDown s.st,
                      out := { Output.silent with audio := some (decide (s.st ≠ 0)) } } := by
  unfold State.tick; split
  · rfl
  · simp_all

/-- No tick happens while STOPPED (R227). -/
theorem tick_stopped {s : State} (h : s.run = .stopped) : s.tick = s.drive Output.silent := by
  unfold State.tick; split
  · simp_all
  · rfl

/-- A timer counts down to 0 and stays there (R225). -/
theorem countDown_toNat (b : Byte) : (countDown b).toNat = b.toNat - 1 := by
  unfold countDown
  split
  · next h => subst h; rfl
  · next h => have := b.isLt; bv_omega

/-- A load is refused with no change, or resets the machine and places the ROM (R253, R254). -/
theorem loadRom_cases (s : State) (rom : List Byte) :
    (0x200 + rom.length ≤ 4096 ∧
      s.loadRom rom = (s.resetBlock.setMem (Memory.writeBytes [] programBase rom)).drive
        { Output.silent with load := some .ok }) ∨
    (4096 < 0x200 + rom.length ∧
      s.loadRom rom = s.drive { Output.silent with load := some (.outOfBounds rom.length) }) := by
  by_cases h : 0x200 + rom.length ≤ 4096
  · exact .inl ⟨h, loadRom_ok h⟩
  · exact .inr ⟨by omega, loadRom_outOfBounds (Nat.lt_of_not_le h)⟩

end Sys2Proof.Machine
end

