-- ==== Sys2Proof/Tests/Slice0.lean ====
section
/-!
SUPPORT. The model's own tests. Expected results come from spec/95_test_vectors.md (the vector is
named), from the encodings of spec/30_encoding.md R82 and R90, or from the rule named. After them, a
witness for the hypotheses of each statement that has some.
-/

namespace Sys2Proof.Machine.Tests

/-! ### Well-formedness: the one check, the profile (R2) -/

theorem test_wf_refuses_extended_under_documented : (Instr.call 0x300).wf .documented = false := by
  decide

theorem test_wf_accepts_documented : (Instr.drw 1 2 3).wf .documented = true := by decide

/-! ### Decoding: a word per constructor, bit by bit from R82 and R90 -/

/-- The instruction that the decoder reads from one word's two bytes under `EXTENDED`. -/
def dec (hi lo : Byte) : Option Instr :=
  match decode .extended [hi, lo] with
  | .ok (i, []) => some i
  | _ => none

theorem test_decode_cls : dec 0b00000000 0b11100000 = some .cls := by decide
theorem test_decode_ret : dec 0b00000000 0b11101110 = some .ret := by decide
theorem test_decode_jp : dec 0b00010010 0b00110100 = some (.jp 0x234) := by decide
theorem test_decode_call : dec 0b00101010 0b10111100 = some (.call 0xABC) := by decide
theorem test_decode_seVxNn : dec 0b00111010 0b01000010 = some (.seVxNn 0xA 0x42) := by decide
theorem test_decode_sneVxNn : dec 0b01000001 0b00000101 = some (.sneVxNn 0x1 0x05) := by decide
theorem test_decode_seVxVy : dec 0b01010010 0b00110000 = some (.seVxVy 0x2 0x3) := by decide
theorem test_decode_ldVxNn : dec 0b01100011 0b01111111 = some (.ldVxNn 0x3 0x7F) := by decide
theorem test_decode_addVxNn : dec 0b01110010 0b00001010 = some (.addVxNn 0x2 0x0A) := by decide
theorem test_decode_ldVxVy : dec 0b10000010 0b00010000 = some (.ldVxVy 0x2 0x1) := by decide
theorem test_decode_orVxVy : dec 0b10000100 0b00100001 = some (.orVxVy 0x4 0x2) := by decide
theorem test_decode_andVxVy : dec 0b10000100 0b00100010 = some (.andVxVy 0x4 0x2) := by decide
theorem test_decode_xorVxVy : dec 0b10000100 0b00100011 = some (.xorVxVy 0x4 0x2) := by decide
theorem test_decode_addVxVy : dec 0b10001111 0b00010100 = some (.addVxVy 0xF 0x1) := by decide
theorem test_decode_sub : dec 0b10000000 0b00010101 = some (.sub 0x0 0x1) := by decide
theorem test_decode_shr : dec 0b10000101 0b10100110 = some (.shr 0x5 0xA) := by decide
theorem test_decode_subn : dec 0b10000000 0b00010111 = some (.subn 0x0 0x1) := by decide
theorem test_decode_shl : dec 0b10000101 0b10101110 = some (.shl 0x5 0xA) := by decide
theorem test_decode_sneVxVy : dec 0b10010010 0b00110000 = some (.sneVxVy 0x2 0x3) := by decide
theorem test_decode_ldI : dec 0b10100010 0b01010000 = some (.ldI 0x250) := by decide
theorem test_decode_jpV0 : dec 0b10110011 0b00000000 = some (.jpV0 0x300) := by decide
theorem test_decode_rnd : dec 0b11000011 0b00001111 = some (.rnd 0x3 0x0F) := by decide
theorem test_decode_drw : dec 0b11010001 0b00100101 = some (.drw 0x1 0x2 0x5) := by decide
theorem test_decode_skp : dec 0b11100010 0b10011110 = some (.skp 0x2) := by decide
theorem test_decode_sknp : dec 0b11100010 0b10100001 = some (.sknp 0x2) := by decide
theorem test_decode_ldVxDt : dec 0b11110001 0b00000111 = some (.ldVxDt 0x1) := by decide
theorem test_decode_ldVxK : dec 0b11110101 0b00001010 = some (.ldVxK 0x5) := by decide
theorem test_decode_ldDtVx : dec 0b11110001 0b00010101 = some (.ldDtVx 0x1) := by decide
theorem test_decode_ldStVx : dec 0b11110010 0b00011000 = some (.ldStVx 0x2) := by decide
theorem test_decode_addIVx : dec 0b11110000 0b00011110 = some (.addIVx 0x0) := by decide
theorem test_decode_ldFVx : dec 0b11110100 0b00101001 = some (.ldFVx 0x4) := by decide
theorem test_decode_ldBVx : dec 0b11110000 0b00110011 = some (.ldBVx 0x0) := by decide
theorem test_decode_ldMemVx : dec 0b11110010 0b01010101 = some (.ldMemVx 0x2) := by decide
theorem test_decode_ldVxMem : dec 0b11110010 0b01100101 = some (.ldVxMem 0x2) := by decide

/-- R89: the word 0000 is Unknown and is refused by name. -/
theorem test_decode_zero_unknown :
    decode .extended [0x00, 0x00] = .error (.unknownOpcode 0x0000) := by decide

theorem test_decode_truncated : decode .extended [0xD0] = .error .truncated := by decide

/-- `decodeTableWord` numbers bits as the table does: `DXYN` from its row's 16 bits. -/
theorem test_table_word : decodeTableWord 16 0xD125 = some (.drw 0x1 0x2 0x5) := by decide

/-! ### One step each, from spec/95_test_vectors.md -/

/-- The reset state with registers, `I` and memory cells set (the vectors' start states). -/
def start (regs : List (Nibble × Byte)) (i : Word := 0) (cells : List (Nat × Byte) := []) : State :=
  { regs.foldl (fun s r => s.setReg r.1 r.2) State.reset with
    i := i, mem := cells.foldl (fun m c => Memory.write m c.1 c.2) [] }

/-- What a step of the word `w` at `pc` leaves, seen through `f`. -/
def after {α : Type} (s : State) (w : Nat) (f : State → α) : Option α :=
  match step (s.withFetchWord 16 w) with
  | .next t => some (f t)
  | _ => none

/-- The lit cells among some. -/
def lit (cells : List (Fin 64 × Fin 32)) (t : State) : List Bool :=
  cells.map fun c => t.disp.cell c.1 c.2

/-- A display with some cells lit. -/
def litDisplay (cells : List (Fin 64 × Fin 32)) : Display :=
  cells.foldl (fun d c => d.flip c.1 c.2) Display.blank

/-- V-CLS1. -/
theorem test_cls : after { start [] with disp := litDisplay [(0, 0), (63, 31)] } 0x00E0
    (fun t => (t.pc, lit [(0, 0), (63, 31)] t)) = some (0x202, [false, false]) := by decide

/-- V-RET3. -/
theorem test_ret :
    after { start [] with sp := 2, stack := (Vector.replicate 16 0).set 1 0x2A4 } 0x00EE
      (fun t => (t.pc, t.sp)) = some (0x2A4, 1) := by decide

/-- V-RET2. -/
theorem test_ret_underflow : after (start []) 0x00EE (fun t => (t.fault, t.pc)) =
    some (⟨.stackUnderflow, 0x200, 0x00EE, 0x0000⟩, 0x200) := by decide

/-- V-JP2. -/
theorem test_jp : after (start []) 0x1201 (·.pc) = some 0x201 := by decide

/-- V-CALL1. -/
theorem test_call : after (start []) 0x2300 (fun t => (t.pc, t.sp, t.stack[0])) =
    some (0x300, 1, 0x202) := by decide

/-- V-CALL3. -/
theorem test_call_overflow : after { start [] with sp := 16 } 0x2300 (fun t => (t.fault, t.sp)) =
    some (⟨.stackOverflow, 0x200, 0x2300, 0x0000⟩, 16) := by decide

/-- V-SE1, V-SE2. -/
theorem test_seVxNn : (after (start [(0xA, 0x42)]) 0x3A42 (·.pc),
    after (start [(0xA, 0x43)]) 0x3A42 (·.pc)) = (some 0x204, some 0x202) := by decide

/-- V-SNE1, V-SNE2. -/
theorem test_sneVxNn : (after (start [(0xA, 0x42)]) 0x4A42 (·.pc),
    after (start []) 0x4A42 (·.pc)) = (some 0x202, some 0x204) := by decide

/-- V-SE3, V-SE4. -/
theorem test_seVxVy : (after (start [(1, 7), (2, 7)]) 0x5120 (·.pc),
    after (start [(1, 7), (2, 8)]) 0x5120 (·.pc)) = (some 0x204, some 0x202) := by decide

/-- V-SNE3, V-SNE4. -/
theorem test_sneVxVy : (after (start [(1, 7), (2, 8)]) 0x9120 (·.pc),
    after (start [(1, 7), (2, 7)]) 0x9120 (·.pc)) = (some 0x204, some 0x202) := by decide

/-- V-LDI1. -/
theorem test_ldVxNn : after (start []) 0x6A42 (fun t => (t.reg 0xA, t.pc)) =
    some (0x42, 0x202) := by decide

/-- V-ADDI1. -/
theorem test_addVxNn : after (start [(2, 0xFF), (0xF, 0x33)]) 0x720A
    (fun t => (t.reg 2, t.reg 0xF)) = some (0x09, 0x33) := by decide

/-- V-ALU1. -/
theorem test_ldVxVy : after (start [(1, 0x20)]) 0x8210 (·.reg 2) = some 0x20 := by decide

/-- V-ALU2. -/
theorem test_orVxVy : after (start [(0, 0x0F), (1, 0xF0), (0xF, 5)]) 0x8011
    (fun t => (t.reg 0, t.reg 0xF)) = some (0xFF, 5) := by decide

/-- V-ALU3. -/
theorem test_andVxVy : after (start [(0, 0x3C), (1, 0x0F)]) 0x8012 (·.reg 0) = some 0x0C := by
  decide

/-- V-ALU4. -/
theorem test_xorVxVy : after (start [(0, 0xFF), (1, 0x0F)]) 0x8013 (·.reg 0) = some 0xF0 := by
  decide

/-- V-ALU6. -/
theorem test_addVxVy : after (start [(0, 0xF0), (1, 0x20)]) 0x8014
    (fun t => (t.reg 0, t.reg 0xF)) = some (0x10, 1) := by decide

/-- V-ALU10: the flag wins over the sum. -/
theorem test_addVxVy_flag_last : after (start [(0xF, 0xFF), (1, 1)]) 0x8F14 (·.reg 0xF) =
    some 1 := by decide

/-- V-ALU12, V-ALU13. -/
theorem test_sub : (after (start [(0, 0x10), (1, 0x20)]) 0x8015 (fun t => (t.reg 0, t.reg 0xF)),
    after (start [(0, 0x20), (1, 0x20)]) 0x8015 (fun t => (t.reg 0, t.reg 0xF))) =
    (some (0xF0, 0), some (0x00, 1)) := by decide

/-- V-ALU18, V-ALU20. -/
theorem test_shr : (after (start [(0, 0xE0)]) 0x8006 (fun t => (t.reg 0, t.reg 0xF)),
    after (start [(0, 2), (1, 3)]) 0x8016 (fun t => (t.reg 0, t.reg 0xF))) =
    (some (0x70, 0), some (1, 0)) := by decide

/-- V-ALU16, V-ALU17. -/
theorem test_subn : (after (start [(0, 0x10), (1, 0x30)]) 0x8017 (fun t => (t.reg 0, t.reg 0xF)),
    after (start [(0, 1)]) 0x8017 (fun t => (t.reg 0, t.reg 0xF))) =
    (some (0x20, 1), some (0xFF, 0)) := by decide

/-- V-ALU21, V-ALU23. -/
theorem test_shl : (after (start [(0, 0xF0)]) 0x800E (fun t => (t.reg 0, t.reg 0xF)),
    after (start [(0xF, 0x81)]) 0x8F0E (·.reg 0xF)) = (some (0xE0, 1), some 1) := by decide

/-- V-Q1 and V-Q2: two quirks set. -/
theorem test_quirks : (after { start [(0, 0x0F), (1, 0xF0), (0xF, 5)] with
      params := ⟨.extended, true, false, false, false⟩ } 0x8011 (fun t => (t.reg 0, t.reg 0xF)),
    after { start [(0, 2), (1, 3)] with
      params := ⟨.extended, false, true, false, false⟩ } 0x8016 (fun t => (t.reg 0, t.reg 0xF))) =
    (some (0xFF, 0), some (1, 1)) := by decide

/-- V-LDI_2. -/
theorem test_ldI : after (start []) 0xAFFF (·.i) = some 0xFFF := by decide

/-- V-JPV2. -/
theorem test_jpV0 : after (start [(0, 0xFF)]) 0xBFFF (·.pc) = some 0x10FE := by decide

/-- V-Q6. -/
theorem test_jpV0_quirk : after { start [(2, 0x40)] with
    params := ⟨.extended, false, false, false, true⟩ } 0xB201 (·.pc) = some 0x241 := by decide

/-- V-RND2: a mask of 0 gives 0 whatever is drawn. -/
theorem test_rnd : after (start [(3, 0x55)]) 0xC300 (fun t => (t.randIx, t.pc)) =
    some (1, 0x202) := by decide

/-- V-DRW1 (four of its cells, and two that stay dark). -/
theorem test_drw : after (start [] 0x050) 0xD015
    (fun t => (t.reg 0xF, lit [(0, 0), (3, 0), (3, 3), (1, 4), (4, 0), (1, 1)] t)) =
    some (0, [true, true, true, true, false, false]) := by decide

/-- V-DRW10: the row is the value VF held before, and the collision is set. -/
theorem test_drw_vf_operand :
    after { start [(0xF, 4)] 0x300 [(0x300, 0x80)] with disp := litDisplay [(0, 4)] } 0xD0F1
      (fun t => (t.reg 0xF, lit [(0, 4), (0, 0)] t)) = some (1, [false, false]) := by decide

/-- V-DRW5: the sprite wraps on both axes. -/
theorem test_drw_wraps :
    after (start [(0, 0x3C), (1, 0x1F)] 0x300 [(0x300, 0x81), (0x301, 0x81)]) 0xD012
      (lit [(60, 31), (3, 31), (60, 0), (3, 0)]) = some [true, true, true, true] := by decide

/-- V-DRW9. -/
theorem test_drw_fault : after (start [(0xF, 7)] 0xFFD) 0xD014
    (fun t => (t.fault, t.reg 0xF, t.out.publish)) =
    some (⟨.invalidAddress, 0x200, 0xD014, 0x1000⟩, 7, false) := by decide

/-- V-KEY5, V-KEY2. -/
theorem test_skp : (after { start [(3, 0x13)] with keys := 0x0008 } 0xE39E (·.pc),
    after { start [(3, 5)] with keys := 0x0010 } 0xE39E (·.pc)) = (some 0x204, some 0x202) := by
  decide

/-- V-KEY3, V-KEY4. -/
theorem test_sknp : (after { start [(3, 5)] with keys := 0x0020 } 0xE3A1 (·.pc),
    after (start [(3, 5)]) 0xE3A1 (·.pc)) = (some 0x202, some 0x204) := by decide

/-- V-TIM1. -/
theorem test_ldVxDt : after { start [] with dt := 0x3C } 0xF407 (·.reg 4) = some 0x3C := by decide

/-- V-KEY7, V-KEY6. -/
theorem test_ldVxK :
    (after { start [(2, 0x77)] with keys := 0x0220 } 0xF20A (fun t => (t.reg 2, t.pc)),
      after (start [(2, 0x77)]) 0xF20A (fun t => (t.reg 2, t.pc))) =
    (some (5, 0x202), some (0x77, 0x200)) := by decide

/-- V-TIM2. -/
theorem test_ldDtVx : after (start [(4, 5)]) 0xF415 (·.dt) = some 5 := by decide

/-- V-TIM4. -/
theorem test_ldStVx : after (start [(4, 0xFF)]) 0xF418 (·.st) = some 0xFF := by decide

/-- V-IDX2, V-IDX3. -/
theorem test_addIVx : (after (start [(0, 1)] 0xFFF) 0xF01E (·.i),
    after (start [(0, 2), (0xF, 9)] 0xFFFF) 0xF01E (fun t => (t.i, t.reg 0xF))) =
    (some 0x1000, some (1, 9)) := by decide

/-- V-IDX6. -/
theorem test_ldFVx : after (start [(0, 0x1F)]) 0xF029 (·.i) = some 0x09B := by decide

/-- V-MEM2. -/
theorem test_ldBVx : after (start [(0, 0xFF)] 0x300) 0xF033
    (fun t => [0x300, 0x301, 0x302].map (Memory.read t.mem)) = some [2, 5, 5] := by decide

/-- V-MEM5. -/
theorem test_ldBVx_fault : after (start [(0, 9)] 0xFFE) 0xF033 (fun t => (t.fault, t.pc)) =
    some (⟨.invalidAddress, 0x200, 0xF033, 0x1000⟩, 0x200) := by decide

/-- V-MEM6. -/
theorem test_ldMemVx : after (start [(0, 1), (1, 2), (2, 3)] 0x300) 0xF255
    (fun t => ([0x300, 0x301, 0x302].map (Memory.read t.mem), t.i)) = some ([1, 2, 3], 0x300) := by
  decide

/-- V-Q4. -/
theorem test_ldMemVx_quirk : after { start [(0, 1)] 0x300 with
    params := ⟨.extended, false, false, true, false⟩ } 0xF255 (·.i) = some 0x303 := by decide

/-- V-MEM12. -/
theorem test_ldVxMem : after (start [] 0x050) 0xF465
    (fun t => [0, 1, 2, 3, 4, 5].map t.reg) = some [0xF0, 0x90, 0x90, 0x90, 0xF0, 0] := by decide

/-- V-MEM11. -/
theorem test_ldVxMem_fault : after (start [(0, 3), (1, 4)] 0xFFF) 0xF165
    (fun t => (t.fault, t.reg 0)) = some (⟨.invalidAddress, 0x200, 0xF165, 0x1000⟩, 3) := by decide

/-! ### The step cycle, the timer and the host -/

/-- V-F3: an unknown word is reported and skipped. -/
theorem test_unknown : after (start []) 0x0123 (fun t => (t.pc, t.out.report, t.out.publish)) =
    some (0x202, some ⟨0x200, 0x0123⟩, true) := by decide

/-- A state whose next event is `e`. -/
def withEvent (s : State) (e : Event) : State := { s with pending := [e] }

/-- What the event `e` leaves, seen through `f`. -/
def onEvent {α : Type} (s : State) (e : Event) (f : State → α) : Option α :=
  match step (withEvent s e) with
  | .next t => some (f t)
  | _ => none

/-- V-F4: under `DOCUMENTED` the word 8014 is unknown. -/
theorem test_documented_unknown :
    onEvent { start [(0, 1), (1, 2)] 0 [(0x200, 0x80), (0x201, 0x14)] with
      run := .running, params := ⟨.documented, false, false, false, false⟩ } .step
      (fun t => (t.pc, t.reg 0, t.out.report)) = some (0x202, 1, some ⟨0x200, 0x8014⟩) := by decide

/-- V-F10. -/
theorem test_fetch_fault : onEvent { start [] with run := .running, pc := 0xFFF } .step
    (fun t => (t.fault, t.pc)) = some (⟨.invalidAddress, 0xFFF, 0x0000, 0x1000⟩, 0xFFF) := by decide

/-- V-TK4. -/
theorem test_tick : onEvent { start [] with run := .running, dt := 0xFF, st := 0xFF } .tick
    (fun t => (t.dt, t.st, t.out.audio)) = some (0xFE, 0xFE, some true) := by decide

/-- V-TK5: ticks go on while faulted, and do not go below 0. -/
theorem test_tick_faulted : onEvent { start [] with
      run := .running, dt := 2, fault := ⟨.stackUnderflow, 0x200, 0x00EE, 0⟩ } .tick
    (fun t => (t.dt, t.st, t.out.audio)) = some (1, 0, some false) := by decide

/-- V-TK6. -/
theorem test_tick_stopped : onEvent { start [] with dt := 2 } .tick (·.dt) = some 2 := by decide

/-- V-H2. -/
theorem test_load : onEvent { start [(5, 0x11)] with
      run := .running, fault := ⟨.invalidAddress, 0x202, 0xD002, 0x1000⟩ } (.load [0x00, 0xE0])
    (fun t => (t.fault.cause, t.reg 5, t.pc, t.run, [0x200, 0x201].map (Memory.read t.mem))) =
    some (.none, 0, 0x200, .running, [0x00, 0xE0]) := by decide

/-- V-H6: a load restores the font. -/
theorem test_load_font : onEvent (start [] 0 [(0x050, 0x00)]) (.load [])
    (fun t => (Memory.read t.mem 0x050, t.out.load)) = some (0xF0, some .ok) := by decide

/-- V-H3: a ROM of 3585 bytes is refused, whatever the state. -/
theorem test_load_too_large (s : State) :
    (s.loadRom (List.replicate 3585 0)).v = s.v ∧
      (s.loadRom (List.replicate 3585 0)).out.load = some (.outOfBounds 3585) := by
  rw [loadRom_outOfBounds (by rw [List.length_replicate]; decide)]
  exact ⟨rfl, by rw [List.length_replicate]; rfl⟩

/-- V-H4, V-H5. -/
theorem test_run_stop : (onEvent { start [] with run := .running } .stop (·.run),
    onEvent (start []) .run (·.run)) = (some .stopped, some .running) := by decide

/-- R243: after a load `disp_out` still shows the buffer as of the last completed step. -/
theorem test_load_display : onEvent { start [] with
      disp := litDisplay [(3, 5)], dispOut := litDisplay [(3, 5)] } (.load [])
    (fun t => (t.disp.cell 3 5, t.dispOut.cell 3 5)) = some (false, true) := by decide

/-- R108, R243: the step after it publishes the buffer that the load left. -/
theorem test_publish : after { start [] with dispOut := litDisplay [(3, 5)] } 0x1200
    (fun t => (t.dispOut.cell 3 5, t.out.publish)) = some (false, true) := by decide

/-- The font, glyph by glyph, from the table of R53. -/
theorem test_font : [0x050, 0x055, 0x05A, 0x05F, 0x064, 0x069, 0x06E, 0x073].map
      (fun a => (List.range 5).map fun k => Memory.read [] (a + k)) =
    [[0xF0, 0x90, 0x90, 0x90, 0xF0], [0x20, 0x60, 0x20, 0x20, 0x70], [0xF0, 0x10, 0xF0, 0x80, 0xF0],
      [0xF0, 0x10, 0xF0, 0x10, 0xF0], [0x90, 0x90, 0xF0, 0x10, 0x10], [0xF0, 0x80, 0xF0, 0x10, 0xF0],
      [0xF0, 0x80, 0xF0, 0x90, 0xF0], [0xF0, 0x10, 0x20, 0x40, 0x40]] := by decide

theorem test_font_upper : [0x078, 0x07D, 0x082, 0x087, 0x08C, 0x091, 0x096, 0x09B].map
      (fun a => (List.range 5).map fun k => Memory.read [] (a + k)) =
    [[0xF0, 0x90, 0xF0, 0x90, 0xF0], [0xF0, 0x90, 0xF0, 0x10, 0xF0], [0xF0, 0x90, 0xF0, 0x90, 0x90],
      [0xE0, 0x90, 0xE0, 0x90, 0xE0], [0xF0, 0x80, 0x80, 0x80, 0xF0], [0xE0, 0x90, 0x90, 0x90, 0xE0],
      [0xF0, 0x80, 0xF0, 0x80, 0xF0], [0xF0, 0x80, 0xF0, 0x80, 0x80]] := by decide

/-- The codes of R210. -/
theorem test_codes : ([Cause.none, .invalidAddress, .stackOverflow, .stackUnderflow].map Cause.code,
    Report.code ⟨0, 0⟩, [LoadStatus.ok, .outOfBounds 3585].map LoadStatus.code) =
    ([0, 1, 2, 3], 4, [0, 5]) := by decide

/-! ### Witnesses: a state and operands that meet all hypotheses of a statement together, for each of
its clauses, at the boundary of the clause's range. Named after the statement. -/

/-- A machine at creation, running, whose next events are `es`. -/
def running (es : List Event) : State := { State.reset with run := .running, pending := es }

/-- The same state when its next event has been taken. -/
def taken (s : State) : State := s.nextEvent.2

theorem witness_DecodeReadsBackEncodedInstruction :
    (Instr.drw 0xF 0xF 0xF).wf .documented = true ∧ (Instr.ldVxMem 0xF).wf .extended = true := by
  decide

theorem witness_DecodedInstructionEncodesToItsWord :
    decodeWord .documented 0xDFFF = some (.drw 0xF 0xF 0xF) ∧
      decodeWord .extended 0x00EE = some .ret := by decide

theorem witness_DocumentedWordsKeepTheirInstruction :
    decodeWord .documented 0x00E0 = some .cls ∧ decodeWord .documented 0xAFFF = some (.ldI 0xFFF) := by
  decide

/-- The highest address that can be fetched. -/
def lastWord : State :=
  { running [.step] with pc := 0xFFE, mem := [(0xFFE, 0x6A), (0xFFF, 0x42)] }

theorem witness_StepRunsTheDecodedInstruction :
    lastWord.nextEvent = (.step, taken lastWord) ∧ lastWord.run = .running ∧
      lastWord.fault.cause = .none ∧ lastWord.pc.toNat ≤ 0xFFE ∧
      decodeWord lastWord.params.opcodeSet (joinBytes (Memory.read lastWord.mem lastWord.pc.toNat)
        (Memory.read lastWord.mem (lastWord.pc.toNat + 1))) = some (.ldVxNn 0xA 0x42) :=
  ⟨rfl, rfl, rfl, by decide, by decide⟩

theorem witness_StepReportsAndSkipsUnknownOpcode :
    let s : State := { running [.step] with pc := 0xFFE }
    s.nextEvent = (.step, taken s) ∧ s.run = .running ∧ s.fault.cause = .none ∧
      s.pc.toNat ≤ 0xFFE ∧
      0x0000 = joinBytes (Memory.read s.mem s.pc.toNat) (Memory.read s.mem (s.pc.toNat + 1)) ∧
      decodeWord s.params.opcodeSet 0x0000 = none :=
  ⟨rfl, rfl, rfl, by decide, by decide, by decide⟩

theorem witness_FetchPastMemoryFaults :
    let s : State := { running [.step] with pc := 0xFFF }
    s.nextEvent = (.step, taken s) ∧ s.run = .running ∧ s.fault.cause = .none ∧
      0xFFE < s.pc.toNat := ⟨rfl, rfl, rfl, by decide⟩

/-- A machine faulted by a return on an empty stack, still RUNNING. -/
def faultedMachine (es : List Event) : State :=
  { running es with fault := ⟨.stackUnderflow, 0x200, 0x00EE, 0⟩ }

/-- A machine at creation, stopped. -/
def stoppedMachine (es : List Event) : State := { State.reset with pending := es }

theorem witness_StepStrobeIsIgnoredWhenNotEnabled :
    (stoppedMachine [.step]).nextEvent = (.step, taken (stoppedMachine [.step])) ∧
      (stoppedMachine [.step]).run = .stopped ∧
      (faultedMachine [.step]).nextEvent = (.step, taken (faultedMachine [.step])) ∧
      (faultedMachine [.step]).fault.cause ≠ .none := ⟨rfl, rfl, rfl, by decide⟩

theorem witness_TickCountsBothTimersDown :
    (running [.tick]).nextEvent = (.tick, taken (running [.tick])) ∧
      (running [.tick]).run = .running ∧
      (stoppedMachine [.tick]).nextEvent = (.tick, taken (stoppedMachine [.tick])) ∧
      (stoppedMachine [.tick]).run = .stopped := ⟨rfl, rfl, rfl, rfl⟩

theorem witness_RunAndStopChangeRunAlone :
    (stoppedMachine [.run]).nextEvent = (.run, taken (stoppedMachine [.run])) ∧
      (running [.stop]).nextEvent = (.stop, taken (running [.stop])) := ⟨rfl, rfl⟩

theorem witness_KeypadChangesKeysAlone :
    (running [.keys 0x8001]).nextEvent = (.keys 0x8001, taken (running [.keys 0x8001])) := rfl

/-- The largest ROM that fits, and the smallest that does not. -/
theorem witness_RomLoadResetsAndPlacesOrRefuses :
    let big : List Byte := List.replicate 3584 0xFF
    let bigger : List Byte := List.replicate 3585 0xFF
    ((running [.load big]).nextEvent = (.load big, taken (running [.load big])) ∧
      0x200 + big.length ≤ 4096) ∧
    ((running [.load bigger]).nextEvent = (.load bigger, taken (running [.load bigger])) ∧
      4096 < 0x200 + bigger.length) := by
  refine ⟨⟨rfl, ?_⟩, rfl, ?_⟩
  · rw [List.length_replicate]
  · rw [List.length_replicate]; decide

/-- No row at the top of the index, one whole sprite up to the last byte, and one row too many. -/
theorem witness_DrawFlipsCoveredCellsOrFaults :
    (0x0 : Nibble).toNat = 0 ∧
      (start [] 0xFF1).i.toNat + (0xF : Nibble).toNat - 1 ≤ 0xFFF ∧
      (0 < (0xF : Nibble).toNat ∧ 0xFFF < (start [] 0xFF2).i.toNat + (0xF : Nibble).toNat - 1) ∧
      (0 < (0x1 : Nibble).toNat ∧ 0xFFF < (start [] 0x1000).i.toNat + (0x1 : Nibble).toNat - 1) := by
  decide

theorem witness_ReturnPopsOrUnderflows :
    ({ State.reset with sp := 1 } : State).sp.val = (0 : Fin 16).val + 1 ∧
      ({ State.reset with sp := 16 } : State).sp.val = (15 : Fin 16).val + 1 ∧
      State.reset.sp.val = 0 := by decide

theorem witness_CallPushesOrOverflows :
    State.reset.sp.val = (0 : Fin 16).val ∧
      ({ State.reset with sp := 15 } : State).sp.val = (15 : Fin 16).val ∧
      ({ State.reset with sp := 16 } : State).sp.val = 16 := by decide

theorem witness_ReturnAfterCallComesBack : ({ State.reset with sp := 15 } : State).sp.val < 16 := by
  decide

theorem witness_ShiftsMoveOneBitToTheFlag :
    let s : State := start [(0xE, 0x81), (0xF, 0x01)]
    let q : State := { s with params := ⟨.extended, false, true, false, false⟩ }
    (0x81 : Byte) = (if s.params.quirkShiftSourceVy = true then s.reg 0xF else s.reg 0xE) ∧
      (0x01 : Byte) = (if q.params.quirkShiftSourceVy = true then q.reg 0xF else q.reg 0xE) := by
  decide

/-- No key; the highest key alone; two keys, of which the lower is answered. -/
theorem witness_WaitForKeyRepeatsOrTakesTheLowest :
    State.reset.keys = 0 ∧
      (15 < 16 ∧ { State.reset with keys := 0x8000 }.keys.getLsbD 15 = true ∧
        ∀ j < 15, { State.reset with keys := 0x8000 }.keys.getLsbD j = false) ∧
      (0 < 16 ∧ { State.reset with keys := 0x8001 }.keys.getLsbD 0 = true ∧
        ∀ j < 0, { State.reset with keys := 0x8001 }.keys.getLsbD j = false) := by decide

/-- The last three bytes of memory, and one byte past them. -/
theorem witness_DecimalDigitsAreStoredOrFault :
    (MemoryCanonical (start [(1, 255)] 0xFFD) ∧ (start [(1, 255)] 0xFFD).i.toNat + 2 ≤ 0xFFF) ∧
      0xFFF < (start [(1, 255)] 0xFFE).i.toNat + 2 := by
  refine ⟨⟨?_, ?_⟩, ?_⟩ <;> first | exact Memory.wf_nil | decide

theorem witness_RegistersAreStoredOrFault :
    (MemoryCanonical (start [] 0xFF0) ∧ (start [] 0xFF0).i.toNat + (0xF : Nibble).toNat ≤ 0xFFF) ∧
      0xFFF < (start [] 0xFF1).i.toNat + (0xF : Nibble).toNat := by
  refine ⟨⟨Memory.wf_nil, ?_⟩, ?_⟩ <;> decide

theorem witness_RegistersAreLoadedOrFault :
    (start [] 0xFF0).i.toNat + (0xF : Nibble).toNat ≤ 0xFFF ∧
      0xFFF < (start [] 0x1000).i.toNat + (0x0 : Nibble).toNat := by decide

theorem witness_DrawingTwiceRestoresTheDisplay :
    (0xE : Nibble) ≠ vf ∧ (0x0 : Nibble) ≠ vf ∧
      ((0xF : Nibble).toNat = 0 ∨ (start [] 0xFF1).i.toNat + (0xF : Nibble).toNat - 1 ≤ 0xFFF) ∧
      (∀ px py, (start [] 0xFF1).disp.cell px py = false) := by
  refine ⟨by decide, by decide, by decide, fun px py => Display.cell_blank px py⟩

theorem witness_StoreThenLoadKeepsTheRegisters :
    MemoryCanonical (start [] 0xFF0) ∧
      (start [] 0xFF0).i.toNat + (0xF : Nibble).toNat ≤ 0xFFF ∧
      (start [] 0xFF0).params.quirkLoadStoreIncI = false := by
  refine ⟨Memory.wf_nil, ?_, ?_⟩ <;> decide

theorem witness_StoredBytesAreFetched :
    MemoryCanonical (start [] 0xFFE) ∧ 1 ≤ (0x1 : Nibble).toNat ∧
      (start [] 0xFFE).i.toNat + (0x1 : Nibble).toNat ≤ 0xFFF := by
  refine ⟨Memory.wf_nil, ?_, ?_⟩ <;> decide

theorem witness_ParkedStepOnlyPublishes :
    let s : State := { running [.step] with pc := 0xFFE, mem := [(0xFFE, 0x1F), (0xFFF, 0xFE)] }
    EndParked s ∧ s.nextEvent = (.step, taken s) ∧ s.run = .running ∧ s.fault.cause = .none :=
  ⟨⟨by decide, by rfl⟩, rfl, rfl, rfl⟩

/-- Both disjuncts: an instruction that faults, and one that commits. -/
theorem witness_InstructionsCommitInFrameOrFaultPrecisely :
    exec .ret State.reset = .next (faulted State.reset .stackUnderflow 0x00EE 0) ∧
      exec (.jp 0x234) State.reset =
        .next { State.reset with pc := 0x0234, dispOut := Display.blank, out := Output.published } := ⟨rfl, rfl⟩

/-- Under the default parameters OR leaves VF out of its destinations. -/
theorem witness_OnlyTheListedRegistersAreWritten :
    exec (.orVxVy 0 1) State.reset =
        .next ((State.reset.advance.setReg 0 0).publish Output.published) ∧
      writesReg State.reset.params (.orVxVy 0 1) vf = false := ⟨rfl, rfl⟩

theorem witness_ProgramCounterFollowsItsTable :
    exec .ret State.reset = .next (faulted State.reset .stackUnderflow 0x00EE 0) ∧
      exec .cls State.reset = .next (State.reset.advance.publish Output.published) := ⟨rfl, rfl⟩

theorem witness_DocumentedStepsLeaveMemoryStackAndTimers :
    let s : State := { lastWord with params := ⟨.documented, false, false, false, false⟩ }
    s.params.opcodeSet = .documented ∧ s.nextEvent.1 = .step ∧
      step s = .next (((taken s).advance.setReg 0xA 0x42).publish Output.published) :=
  ⟨rfl, rfl, by rfl⟩

/-- A cell that `00E0` blanks. -/
theorem witness_OnlyDrawClearAndLoadChangeTheDisplay :
    let s : State := { running [.step] with
      mem := [(0x200, 0x00), (0x201, 0xE0)], disp := litDisplay [(63, 31)] }
    let t : State := ((taken s).advance.setDisp Display.blank).publish Output.published
    step s = .next t ∧ t.disp.cell 63 31 ≠ s.disp.cell 63 31 := ⟨by rfl, by decide⟩

/-- A faulted machine that is handed a ROM of 3585 bytes. -/
def refusedLoad : State := faultedMachine [.load (List.replicate 3585 0)]

/-- A load that is refused leaves the fault in place, and so does a tick. -/
theorem witness_FaultIsStickyUntilALoad :
    ((faultedMachine [.tick]).fault.cause ≠ .none ∧
      step (faultedMachine [.tick]) = .next (taken (faultedMachine [.tick])).tick ∧
      ∀ rom, (faultedMachine [.tick]).nextEvent.1 = .load rom → 4096 < 0x200 + rom.length) ∧
    (refusedLoad.fault.cause ≠ .none ∧
      step refusedLoad = .next ((taken refusedLoad).loadRom (List.replicate 3585 0)) ∧
      ∀ rom, refusedLoad.nextEvent.1 = .load rom → 4096 < 0x200 + rom.length) := by
  refine ⟨⟨by decide, rfl, ?_⟩, by decide, rfl, ?_⟩
  · intro rom h; cases h
  · intro rom h
    injection h with h
    rw [← h, List.length_replicate]; decide

/-- A step that publishes, and a tick, which does not. -/
theorem witness_DisplayOutputHoldsTheLastCompletedStep :
    (step lastWord = .next (((taken lastWord).advance.setReg 0xA 0x42).publish Output.published) ∧
      (((taken lastWord).advance.setReg 0xA 0x42).publish Output.published).out.publish = true) ∧
    (step (running [.tick]) = .next (taken (running [.tick])).tick ∧
      (taken (running [.tick])).tick.out.publish = false) := ⟨⟨by rfl, rfl⟩, rfl, rfl⟩

theorem witness_StoppedMachineKeepsItsState :
    let s := stoppedMachine [.tick]
    s.run = .stopped ∧ step s = .next (taken s).tick ∧ s.nextEvent.1 ≠ .run ∧
      ∀ rom, s.nextEvent.1 = .load rom → 4096 < 0x200 + rom.length := by
  refine ⟨rfl, rfl, by decide, ?_⟩
  intro rom h; cases h

/-- The premise of the three invariants and of `ParametersNeverChange`, at a step that moves. -/
theorem witness_invariants :
    let s := running [.tick]
    MemoryCanonical s ∧ AddressesBounded s ∧ FaultConsistent s ∧ step s = .next (taken s).tick :=
  ⟨Memory.wf_nil, ⟨by decide, by decide⟩, rfl, rfl⟩

/-- Two canonical memories that read alike. -/
theorem witness_CanonicalMemoriesThatReadAlikeAreEqual :
    Memory.wf [(0x300, 0x01)] ∧ ∀ a, Memory.read (Memory.write [] 0x300 0x01) a =
      Memory.read [(0x300, 0x01)] a := ⟨by decide, fun _ => rfl⟩

end Sys2Proof.Machine.Tests
end

section
/-!
SUPPORT and PROOFS. The scope family. What an instruction keeps is followed along the state
operations of its rule; from that, how every instruction ends is said once, and both statements
are read off.
-/

namespace Sys2Proof.Machine

/-! ### What the operations of an instruction's rule keep -/

/-- From `s` to `t`, a state on the way to a commit, nothing but `pc`, the outputs and the parts
listed has changed: `Frame` before the publish. -/
structure Keeps (writes : List Part) (s t : State) : Prop where
  regs : .regs ∉ writes → sameRegs s t
  index : .index ∉ writes → t.i = s.i
  stack : .stack ∉ writes → sameStack s t
  timers : .timers ∉ writes → sameTimers s t
  memory : .memory ∉ writes → sameMemory s t
  display : .display ∉ writes → sameDisplay s t
  draws : .draws ∉ writes → t.randIx = s.randIx
  host : sameHost s t
  fault : t.fault = s.fault

namespace Keeps

variable {w : List Part} {s t : State}

theorem refl (w : List Part) (s : State) : Keeps w s s where
  regs _ _ := rfl
  index _ := rfl
  stack _ := ⟨rfl, rfl⟩
  timers _ := ⟨rfl, rfl⟩
  memory _ _ := rfl
  display _ _ _ := rfl
  draws _ := rfl
  host := ⟨rfl, rfl, rfl, rfl, rfl⟩
  fault := rfl

/-- The commit adds the publish, and nothing else (R107, R108). -/
theorem frame (h : Keeps w s t) : Frame w s (t.publish Output.published) :=
  ⟨h.regs, h.index, h.stack, h.timers, h.memory, h.display, h.draws, h.host, h.fault, rfl, rfl⟩

theorem setPc {a : Word} (h : Keeps w s t) : Keeps w s (t.setPc a) := { h with }

theorem advance (h : Keeps w s t) : Keeps w s t.advance := h.setPc

theorem skipIf {c : Bool} (h : Keeps w s t) : Keeps w s (t.skipIf c) := by
  rw [skipIf_eq]; exact h.setPc

/-- Any change of the registers alone. -/
theorem setV {v : Vector Byte 16} (h : Keeps w s t) (hw : Part.regs ∈ w := by simp [writesOf]) :
    Keeps w s { t with v := v } := { h with regs := absurd hw }

theorem setReg {x : Nibble} {b : Byte} (h : Keeps w s t)
    (hw : Part.regs ∈ w := by simp [writesOf]) : Keeps w s (t.setReg x b) := h.setV hw

theorem setRegs {k : Nat} {bs : List Byte} (h : Keeps w s t)
    (hw : Part.regs ∈ w := by simp [writesOf]) : Keeps w s (t.setRegs k bs) := by
  rw [setRegs_eq]; exact h.setV hw

theorem setResultFlag {x : Nibble} {b : Byte} {f : Bool} (h : Keeps w s t)
    (hw : Part.regs ∈ w := by simp [writesOf]) : Keeps w s (t.setResultFlag x b f) := h.setV hw

theorem setLogicResult {x : Nibble} {b : Byte} (h : Keeps w s t)
    (hw : Part.regs ∈ w := by simp [writesOf]) : Keeps w s (t.setLogicResult x b) := by
  rw [setLogicResult_eq]; exact h.setV hw

theorem setI {a : Word} (h : Keeps w s t) (hw : Part.index ∈ w := by simp [writesOf]) :
    Keeps w s (t.setI a) := { h with index := absurd hw }

theorem incrementI {x : Nibble} (h : Keeps w s t) (hw : Part.index ∈ w := by simp [writesOf]) :
    Keeps w s (t.incrementI x) := by
  rw [incrementI_eq]; exact h.setI hw

theorem setDt {b : Byte} (h : Keeps w s t) (hw : Part.timers ∈ w := by simp [writesOf]) :
    Keeps w s (t.setDt b) := { h with timers := absurd hw }

theorem setSt {b : Byte} (h : Keeps w s t) (hw : Part.timers ∈ w := by simp [writesOf]) :
    Keeps w s (t.setSt b) := { h with timers := absurd hw }

theorem setMem {m : Memory} (h : Keeps w s t) (hw : Part.memory ∈ w := by simp [writesOf]) :
    Keeps w s (t.setMem m) := { h with memory := absurd hw }

theorem setDisp {d : Display} (h : Keeps w s t) (hw : Part.display ∈ w := by simp [writesOf]) :
    Keeps w s (t.setDisp d) := { h with display := absurd hw }

theorem countDraw (h : Keeps w s t) (hw : Part.draws ∈ w := by simp [writesOf]) :
    Keeps w s t.countDraw := { h with draws := absurd hw }

/-- Any change of the call stack alone: what a push and a pop do. -/
theorem setStack {stack : Vector Word 16} {sp : Fin 17} (h : Keeps w s t)
    (hw : Part.stack ∈ w := by simp [writesOf]) :
    Keeps w s { t with stack := stack, sp := sp } := { h with stack := absurd hw }

end Keeps

/-! ### How every instruction ends -/

/-- Instruction `i` on `s` faults with its one cause (R216, R218), or commits a state that keeps
all its rule does not write (R107). -/
def FaultsOrCommits (i : Instr) (s : State) : Prop :=
  (causeOf i ≠ .none ∧ ∃ faddr, FaultsWith i s (causeOf i) faddr) ∨
    ∃ u, exec i s = u.commit ∧ Keeps (writesOf i) s u

theorem ret_faultsOrCommits (s : State) : FaultsOrCommits .ret s := by
  by_cases h : 0 < s.sp.val
  · have hp := pop_of_pos (s := s.advance) h
    exact .inr ⟨_, by simp only [exec, execRet, hp]; rfl,
      (Keeps.refl _ s).advance.setStack.setPc⟩
  · have hp := pop_empty (s := s.advance) (Nat.eq_zero_of_not_pos h)
    exact .inl ⟨nofun, 0, by simp only [FaultsWith, exec, execRet, hp]; rfl⟩

theorem call_faultsOrCommits (nnn : Addr) (s : State) : FaultsOrCommits (.call nnn) s := by
  by_cases h : s.sp.val < 16
  · have hp := push_of_lt (s := s.advance) s.advance.pc h
    exact .inr ⟨_, by simp only [exec, execCall, hp]; rfl,
      (Keeps.refl _ s).advance.setStack.setPc⟩
  · have hfull : s.sp.val = 16 := by omega
    have hp := push_full (s := s.advance) s.advance.pc hfull
    exact .inl ⟨nofun, 0, by simp only [FaultsWith, exec, execCall, hp]; rfl⟩

theorem drw_faultsOrCommits (x y n : Nibble) (s : State) : FaultsOrCommits (.drw x y n) s := by
  obtain ⟨-, hr⟩ | ⟨-, -, hr⟩ := memRead_cases s s.i.toNat n.toNat
  · exact .inr ⟨_, by simp only [exec, execDrw, hr]; rfl,
      (Keeps.refl _ s).advance.setDisp.setReg⟩
  · exact .inl ⟨nofun, _, by simp only [FaultsWith, exec, execDrw, hr]; rfl⟩

theorem ldBVx_faultsOrCommits (x : Nibble) (s : State) : FaultsOrCommits (.ldBVx x) s := by
  obtain ⟨-, hw⟩ | ⟨-, -, hw⟩ := memWrite_cases s.advance s.i.toNat (decimalDigits (s.reg x))
  · exact .inr ⟨_, by simp only [exec, execLdBVx, hw]; rfl,
      (Keeps.refl _ s).advance.setMem⟩
  · exact .inl ⟨nofun, _, by simp only [FaultsWith, exec, execLdBVx, hw]; rfl⟩

theorem ldMemVx_faultsOrCommits (x : Nibble) (s : State) : FaultsOrCommits (.ldMemVx x) s := by
  obtain ⟨-, hw⟩ | ⟨-, -, hw⟩ := memWrite_cases s.advance s.i.toNat (s.regsTo x)
  · exact .inr ⟨_, by simp only [exec, execLdMemVx, hw]; rfl,
      (Keeps.refl _ s).advance.setMem.incrementI⟩
  · exact .inl ⟨nofun, _, by simp only [FaultsWith, exec, execLdMemVx, hw]; rfl⟩

theorem ldVxMem_faultsOrCommits (x : Nibble) (s : State) : FaultsOrCommits (.ldVxMem x) s := by
  obtain ⟨-, hr⟩ | ⟨-, -, hr⟩ := memRead_cases s s.i.toNat (x.toNat + 1)
  · exact .inr ⟨_, by simp only [exec, execLdVxMem, hr]; rfl,
      (Keeps.refl _ s).advance.setRegs.incrementI⟩
  · exact .inl ⟨nofun, _, by simp only [FaultsWith, exec, execLdVxMem, hr]; rfl⟩

/-- `FX0A` always commits, with the lowest held key or with `pc` back at itself (R183). -/
theorem ldVxK_faultsOrCommits (x : Nibble) (s : State) : FaultsOrCommits (.ldVxK x) s := by
  cases hk : lowestKey s.keys with
  | none =>
    exact .inr ⟨_, by simp only [exec, execLdVxK, hk]; rfl,
      (Keeps.refl _ s).advance.setPc⟩
  | some k =>
    exact .inr ⟨_, by simp only [exec, execLdVxK, hk]; rfl,
      (Keeps.refl _ s).advance.setReg⟩

/-- Every instruction faults with its one cause or commits within its frame. An instruction that
cannot fault commits the state that its rule's operations build, and those keep the rest. -/
theorem exec_faultsOrCommits (i : Instr) (s : State) : FaultsOrCommits i s := by
  have h (w : List Part) : Keeps w s s.advance := (Keeps.refl w s).advance
  cases i with
  | ret => exact ret_faultsOrCommits s
  | call nnn => exact call_faultsOrCommits nnn s
  | drw x y n => exact drw_faultsOrCommits x y n s
  | ldBVx x => exact ldBVx_faultsOrCommits x s
  | ldMemVx x => exact ldMemVx_faultsOrCommits x s
  | ldVxMem x => exact ldVxMem_faultsOrCommits x s
  | ldVxK x => exact ldVxK_faultsOrCommits x s
  | cls => exact .inr ⟨_, rfl, (h _).setDisp⟩
  | jp nnn => exact .inr ⟨_, rfl, (h _).setPc⟩
  | jpV0 nnn => exact .inr ⟨_, rfl, (h _).setPc⟩
  | seVxNn x nn => exact .inr ⟨_, rfl, (h _).skipIf⟩
  | sneVxNn x nn => exact .inr ⟨_, rfl, (h _).skipIf⟩
  | seVxVy x y => exact .inr ⟨_, rfl, (h _).skipIf⟩
  | sneVxVy x y => exact .inr ⟨_, rfl, (h _).skipIf⟩
  | skp x => exact .inr ⟨_, rfl, (h _).skipIf⟩
  | sknp x => exact .inr ⟨_, rfl, (h _).skipIf⟩
  | ldVxNn x nn => exact .inr ⟨_, rfl, (h _).setReg⟩
  | addVxNn x nn => exact .inr ⟨_, rfl, (h _).setReg⟩
  | ldVxVy x y => exact .inr ⟨_, rfl, (h _).setReg⟩
  | ldVxDt x => exact .inr ⟨_, rfl, (h _).setReg⟩
  | orVxVy x y => exact .inr ⟨_, rfl, (h _).setLogicResult⟩
  | andVxVy x y => exact .inr ⟨_, rfl, (h _).setLogicResult⟩
  | xorVxVy x y => exact .inr ⟨_, rfl, (h _).setLogicResult⟩
  | addVxVy x y => exact .inr ⟨_, rfl, (h _).setResultFlag⟩
  | sub x y => exact .inr ⟨_, rfl, (h _).setResultFlag⟩
  | shr x y => exact .inr ⟨_, rfl, (h _).setResultFlag⟩
  | subn x y => exact .inr ⟨_, rfl, (h _).setResultFlag⟩
  | shl x y => exact .inr ⟨_, rfl, (h _).setResultFlag⟩
  | rnd x nn => exact .inr ⟨_, rfl, (h _).countDraw.setReg⟩
  | ldI nnn => exact .inr ⟨_, rfl, (h _).setI⟩
  | addIVx x => exact .inr ⟨_, rfl, (h _).setI⟩
  | ldFVx x => exact .inr ⟨_, rfl, (h _).setI⟩
  | ldDtVx x => exact .inr ⟨_, rfl, (h _).setDt⟩
  | ldStVx x => exact .inr ⟨_, rfl, (h _).setSt⟩

/-- The inversion of `exec`: the state it answers is the fault's, or the publish of a state that
keeps all the rule does not write. -/
theorem exec_next_cases {i : Instr} {s t : State} (h : exec i s = .next t) :
    (causeOf i ≠ .none ∧ ∃ faddr, t = faulted s (causeOf i) (encode i) faddr) ∨
      ∃ u, t = u.publish Output.published ∧ Keeps (writesOf i) s u := by
  obtain ⟨hc, faddr, hf⟩ | ⟨u, hu, hk⟩ := exec_faultsOrCommits i s
  · exact .inl ⟨hc, faddr, Host.Outcome.next.inj (h.symm.trans hf)⟩
  · exact .inr ⟨u, Host.Outcome.next.inj (h.symm.trans hu), hk⟩

/-- Settles O46, by following what each rule's operations keep (`exec_faultsOrCommits`). -/
theorem instructionsCommitInFrameOrFaultPrecisely :
    Obligations.InstructionsCommitInFrameOrFaultPrecisely := by
  intro i s t h
  obtain hf | ⟨u, rfl, hk⟩ := exec_next_cases h
  · exact .inl hf
  · exact .inr hk.frame

/-! ### The parameters -/

theorem exec_params {i : Instr} {s t : State} (h : exec i s = .next t) : t.params = s.params := by
  obtain ⟨-, faddr, rfl⟩ | ⟨u, rfl, hk⟩ := exec_next_cases h
  · rfl
  · obtain ⟨-, hparams, -⟩ := hk.host
    exact hparams

theorem engineStep_params {s t : State} (h : s.engineStep = .next t) : t.params = s.params := by
  obtain ⟨-, rfl⟩ | ⟨-, -, rfl⟩ | ⟨-, -, w, -, -, rfl⟩ | ⟨-, -, w, i, -, -, hi⟩ :=
    engineStep_cases h
  · exact drive_params ..
  · exact takeFault_params ..
  · exact skipUnknown_params ..
  · exact exec_params hi

@[simp] theorem tick_params (s : State) : s.tick.params = s.params := by
  cases hr : s.run with
  | running => rw [tick_running hr]
  | stopped => rw [tick_stopped hr, drive_params]

@[simp] theorem loadRom_params (s : State) (rom : List Byte) :
    (s.loadRom rom).params = s.params := by
  obtain ⟨-, h⟩ | ⟨-, h⟩ := loadRom_cases s rom
  · rw [h, drive_params, setMem_params, resetBlock_params]
  · rw [h, drive_params]

theorem handle_params {s t : State} {e : Event} (h : s.handle e = .next t) :
    t.params = s.params := by
  cases e with
  | step => exact engineStep_params h
  | tick => cases h; exact tick_params s
  | run => cases h; exact start_params s
  | stop => cases h; exact halt_params s
  | load rom => cases h; exact loadRom_params s rom
  | keys held => cases h; exact setKeys_params s held

theorem nextEvent_params (s : State) : s.nextEvent.2.params = s.params := by rw [nextEvent_eq]

/-- Settles O57: taking an event keeps the parameters, and so does whatever the event does. -/
theorem parametersNeverChange : Obligations.ParametersNeverChange := by
  intro s t h
  exact (handle_params h).trans (nextEvent_params s)

end Sys2Proof.Machine
end

section
/-!
SUPPORT and PROOFS. The state family: the end of each instruction that can fault, written out; the
table of `pc` (R25) and of the registers (R22); what a transition can do to the machine beside its
timers and its ports; and from these the invariants and the frames of a whole step.
-/

namespace Sys2Proof.Machine

/-! ### The instructions that can end in two ways -/

/-- `00EE` faults at depth 0 and pops the top entry into `pc` above it (R140). -/
theorem exec_ret_cases (s : State) :
    (s.sp.val = 0 ∧ FaultsWith .ret s .stackUnderflow 0) ∨
      ∃ h : 0 < s.sp.val, exec .ret s =
        ({ s.advance with sp := ⟨s.sp.val - 1, by omega⟩ }.setPc
          (s.stack[s.sp.val - 1]'(by omega))).commit := by
  by_cases h : 0 < s.sp.val
  · have hp := pop_of_pos (s := s.advance) h
    exact .inr ⟨h, by simp only [exec, execRet, hp]; rfl⟩
  · have h0 : s.sp.val = 0 := Nat.eq_zero_of_not_pos h
    have hp := pop_empty (s := s.advance) h0
    exact .inl ⟨h0, by simp only [FaultsWith, exec, execRet, hp]; rfl⟩

/-- `2NNN` faults at depth 16 and pushes the address after it below that (R141). -/
theorem exec_call_cases (nnn : Addr) (s : State) :
    (s.sp.val = 16 ∧ FaultsWith (.call nnn) s .stackOverflow 0) ∨
      ∃ h : s.sp.val < 16, exec (.call nnn) s =
        ({ s.advance with stack := s.stack.set s.sp.val (s.pc + 2) h,
                          sp := ⟨s.sp.val + 1, by omega⟩ }.setPc (addrWord nnn)).commit := by
  by_cases h : s.sp.val < 16
  · have hp := push_of_lt (s := s.advance) s.advance.pc h
    exact .inr ⟨h, by simp only [exec, execCall, hp]; rfl⟩
  · have hfull : s.sp.val = 16 := by omega
    have hp := push_full (s := s.advance) s.advance.pc hfull
    exact .inl ⟨hfull, by simp only [FaultsWith, exec, execCall, hp]; rfl⟩

/-- `DXYN` faults past the address space, or writes the display and then VF (R125). -/
theorem exec_drw_cases (x y n : Nibble) (s : State) :
    FaultsWith (.drw x y n) s .invalidAddress (BitVec.ofNat 16 (max s.i.toNat 0x1000)) ∨
      ∃ d b, exec (.drw x y n) s = ((s.advance.setDisp d).setReg vf b).commit := by
  obtain ⟨-, hr⟩ | ⟨-, -, hr⟩ := memRead_cases s s.i.toNat n.toNat
  · exact .inr ⟨_, _, by simp only [exec, execDrw, hr]; rfl⟩
  · exact .inl (by simp only [FaultsWith, exec, execDrw, hr]; rfl)

/-- `FX33` faults past the address space, or writes memory (R190). -/
theorem exec_ldBVx_cases (x : Nibble) (s : State) :
    FaultsWith (.ldBVx x) s .invalidAddress (BitVec.ofNat 16 (max s.i.toNat 0x1000)) ∨
      ∃ m, exec (.ldBVx x) s = (s.advance.setMem m).commit := by
  obtain ⟨-, hw⟩ | ⟨-, -, hw⟩ := memWrite_cases s.advance s.i.toNat (decimalDigits (s.reg x))
  · exact .inr ⟨_, by simp only [exec, execLdBVx, hw]; rfl⟩
  · exact .inl (by simp only [FaultsWith, exec, execLdBVx, hw]; rfl)

/-- `FX55` faults past the address space, or writes memory and then `I` (R191). -/
theorem exec_ldMemVx_cases (x : Nibble) (s : State) :
    FaultsWith (.ldMemVx x) s .invalidAddress (BitVec.ofNat 16 (max s.i.toNat 0x1000)) ∨
      ∃ m, exec (.ldMemVx x) s = ((s.advance.setMem m).incrementI x).commit := by
  obtain ⟨-, hw⟩ | ⟨-, -, hw⟩ := memWrite_cases s.advance s.i.toNat (s.regsTo x)
  · exact .inr ⟨_, by simp only [exec, execLdMemVx, hw]; rfl⟩
  · exact .inl (by simp only [FaultsWith, exec, execLdMemVx, hw]; rfl)

/-- `FX65` faults past the address space, or writes V0..V[x] and then `I` (R192). -/
theorem exec_ldVxMem_cases (x : Nibble) (s : State) :
    FaultsWith (.ldVxMem x) s .invalidAddress (BitVec.ofNat 16 (max s.i.toNat 0x1000)) ∨
      ∃ bs, bs.length = x.toNat + 1 ∧
        exec (.ldVxMem x) s = ((s.advance.setRegs 0 bs).incrementI x).commit := by
  obtain ⟨-, hr⟩ | ⟨-, -, hr⟩ := memRead_cases s s.i.toNat (x.toNat + 1)
  · exact .inr ⟨(List.range (x.toNat + 1)).map fun k => Memory.read s.mem (s.i.toNat + k), by simp,
      by simp only [exec, execLdVxMem, hr]⟩
  · exact .inl (by simp only [FaultsWith, exec, execLdVxMem, hr]; rfl)

/-- `FX0A` stays at itself while no key is held, and else writes V[x] and advances (R183). -/
theorem exec_ldVxK_cases (x : Nibble) (s : State) :
    (s.keys = 0 ∧ exec (.ldVxK x) s = (s.advance.setPc s.pc).commit) ∨
      (s.keys ≠ 0 ∧ ∃ b, exec (.ldVxK x) s = (s.advance.setReg x b).commit) := by
  cases hk : lowestKey s.keys with
  | none =>
    refine .inl ⟨lowestKey_eq_none.1 hk, ?_⟩
    simp only [exec, execLdVxK, hk, advance_pc, BitVec.add_sub_cancel]
  | some k =>
    have h0 : s.keys ≠ 0 := fun h => by simp [lowestKey_eq_none.2 h] at hk
    exact .inr ⟨h0, _, by simp only [exec, execLdVxK, hk]; rfl⟩

/-- The next state of an instruction that faults. -/
theorem FaultsWith.next_eq {i : Instr} {s t : State} {c : Cause} {faddr : Word}
    (hf : FaultsWith i s c faddr) (h : exec i s = .next t) : t = faulted s c (encode i) faddr :=
  Host.Outcome.next.inj (h.symm.trans hf)

theorem FaultsWith.publish_eq_false {i : Instr} {s t : State} {c : Cause} {faddr : Word}
    (hf : FaultsWith i s c faddr) (h : exec i s = .next t) : t.out.publish = false := by
  rw [hf.next_eq h]; rfl

/-- The next state of an instruction that commits. -/
theorem next_eq_of_commit {i : Instr} {s t u : State} (hu : exec i s = u.commit)
    (h : exec i s = .next t) : t = u.publish Output.published :=
  Host.Outcome.next.inj (h.symm.trans hu)

/-! ### pc after an instruction -/

theorem addrWord_eq (nnn : Addr) : addrWord nnn = BitVec.ofNat 16 nnn.toNat :=
  BitVec.eq_of_toNat_eq (by simp [addrWord])

theorem jumpRegister_eq (s : State) (nnn : Addr) : s.jumpRegister nnn =
    if s.params.quirkJumpVx then BitVec.ofNat 4 (nnn.toNat / 256) else 0 := by
  have h : nnn.extractLsb' 8 4 = BitVec.ofNat 4 (nnn.toNat / 256) :=
    BitVec.eq_of_toNat_eq (by simp [Nat.shiftRight_eq_div_pow])
  rw [State.jumpRegister, h]

theorem addrWord_add_byteWord (nnn : Addr) (b : Byte) :
    addrWord nnn + byteWord b = BitVec.ofNat 16 (nnn.toNat + b.toNat) :=
  BitVec.eq_of_toNat_eq (by simp [addrWord, byteWord])

theorem key_lowNibble (s : State) (b : Byte) :
    s.key (lowNibble b) = s.keys.getLsbD (b.toNat % 16) := by
  simp [State.key, lowNibble]

theorem advance_skipIf_pc (s : State) (c : Bool) :
    (s.advance.skipIf c).pc = if c = true then s.pc + 4 else s.pc + 2 := by
  rw [skipIf_eq, setPc_pc, advance_pc, BitVec.add_assoc]; rfl

theorem pc_incrementI (s : State) (x : Nibble) : (s.incrementI x).pc = s.pc := by
  rw [incrementI_eq, setI_pc]

theorem pc_setRegs (s : State) (k : Nat) (bs : List Byte) : (s.setRegs k bs).pc = s.pc := by
  rw [setRegs_eq]

theorem pc_setLogicResult (s : State) (x : Nibble) (b : Byte) :
    (s.setLogicResult x b).pc = s.pc := by
  rw [setLogicResult_eq]

/-- An instruction that publishes leaves `pc` at the value of its row of R25's table. -/
theorem exec_pc {i : Instr} {s t : State} (h : exec i s = .next t) (hp : t.out.publish = true) :
    t.pc = pcAfter s i := by
  have hfault {c : Cause} {faddr : Word} (hf : FaultsWith i s c faddr) : t.pc = pcAfter s i := by
    rw [hf.publish_eq_false h] at hp; cases hp
  cases i with
  | ret =>
    obtain ⟨-, hf⟩ | ⟨hsp, hu⟩ := exec_ret_cases s
    · exact hfault hf
    · rw [next_eq_of_commit hu h, pcAfter, dif_pos hsp]; rfl
  | call nnn =>
    obtain ⟨-, hf⟩ | ⟨_, hu⟩ := exec_call_cases nnn s
    · exact hfault hf
    · rw [next_eq_of_commit hu h]; exact addrWord_eq nnn
  | drw x y n =>
    obtain hf | ⟨d, b, hu⟩ := exec_drw_cases x y n s
    · exact hfault hf
    · rw [next_eq_of_commit hu h]; rfl
  | ldBVx x =>
    obtain hf | ⟨m, hu⟩ := exec_ldBVx_cases x s
    · exact hfault hf
    · rw [next_eq_of_commit hu h]; rfl
  | ldMemVx x =>
    obtain hf | ⟨m, hu⟩ := exec_ldMemVx_cases x s
    · exact hfault hf
    · rw [next_eq_of_commit hu h, publish_pc, pc_incrementI]; rfl
  | ldVxMem x =>
    obtain hf | ⟨bs, -, hu⟩ := exec_ldVxMem_cases x s
    · exact hfault hf
    · rw [next_eq_of_commit hu h, publish_pc, pc_incrementI, pc_setRegs]; rfl
  | ldVxK x =>
    obtain ⟨hk, hu⟩ | ⟨hk, b, hu⟩ := exec_ldVxK_cases x s
    · rw [next_eq_of_commit hu h, pcAfter, if_pos hk]; rfl
    · rw [next_eq_of_commit hu h, pcAfter, if_neg hk]; rfl
  | jp nnn => cases h; exact addrWord_eq nnn
  | jpV0 nnn =>
    cases h
    rw [pcAfter, ← jumpRegister_eq]
    exact addrWord_add_byteWord nnn _
  | seVxNn | seVxVy => cases h; simp [pcAfter, advance_skipIf_pc]
  | sneVxNn | sneVxVy => cases h; simp [pcAfter, advance_skipIf_pc]
  | skp x => cases h; simp [pcAfter, advance_skipIf_pc, key_lowNibble]
  | sknp x =>
    cases h
    rw [publish_pc, advance_skipIf_pc, key_lowNibble, pcAfter]
    cases s.keys.getLsbD _ <;> rfl
  | orVxVy | andVxVy | xorVxVy =>
    cases h; rw [publish_pc, pc_setLogicResult]; rfl
  | _ => cases h; rfl

/-- Settles O48: the table of R25 on a publish (`exec_pc`), and the precise fault otherwise. -/
theorem programCounterFollowsItsTable : Obligations.ProgramCounterFollowsItsTable := by
  intro i s t h
  obtain ⟨hc, faddr, rfl⟩ | ⟨u, rfl, -⟩ := exec_next_cases h
  · exact .inr ⟨rfl, rfl, rfl, hc⟩
  · exact .inl ⟨rfl, exec_pc h rfl⟩

/-! ### The registers that an instruction writes -/

theorem exec_sameRegs {i : Instr} {s t : State} (h : exec i s = .next t)
    (hi : Part.regs ∉ writesOf i) : sameRegs s t := by
  obtain ⟨-, faddr, rfl⟩ | ⟨u, rfl, hk⟩ := exec_next_cases h
  · exact fun _ => rfl
  · exact hk.regs hi

theorem FaultsWith.sameRegs {i : Instr} {s t : State} {c : Cause} {faddr : Word}
    (hf : FaultsWith i s c faddr) (h : exec i s = .next t) : sameRegs s t := by
  rw [hf.next_eq h]; exact fun _ => rfl

/-- Writing V0..V[x] leaves every register above `x`. -/
theorem reg_setRegs_of_lt {s : State} {bs : List Byte} {x r : Nibble}
    (hlen : bs.length = x.toNat + 1) (h : x.toNat < r.toNat) :
    (s.setRegs 0 bs).reg r = s.reg r := by
  have := x.isLt
  rw [reg_setRegs _ _ _ (by omega), if_neg (by omega)]

/-- Settles O47: an instruction whose rule writes no register keeps them all; one whose rule does
writes them by the register operations, which reach the listed ones alone. -/
theorem onlyTheListedRegistersAreWritten : Obligations.OnlyTheListedRegistersAreWritten := by
  intro i s t r h hw
  cases i with
  | drw x y n =>
    obtain hf | ⟨d, b, hu⟩ := exec_drw_cases x y n s
    · exact hf.sameRegs h r
    · have hr : r ≠ vf := by simpa [writesReg] using hw
      rw [next_eq_of_commit hu h, publish_reg, reg_setReg, if_neg hr]; rfl
  | ldVxMem x =>
    obtain hf | ⟨bs, hlen, hu⟩ := exec_ldVxMem_cases x s
    · exact hf.sameRegs h r
    · have hr : x.toNat < r.toNat := by simpa [writesReg] using hw
      rw [next_eq_of_commit hu h, publish_reg, incrementI_eq, setI_reg, reg_setRegs_of_lt hlen hr,
        advance_reg]
  | ldVxK x =>
    have hr : r ≠ x := by simpa [writesReg] using hw
    obtain ⟨-, hu⟩ | ⟨-, b, hu⟩ := exec_ldVxK_cases x s
    · rw [next_eq_of_commit hu h]; rfl
    · rw [next_eq_of_commit hu h, publish_reg, reg_setReg, if_neg hr, advance_reg]
  | ldVxNn x | addVxNn x | ldVxVy x | rnd x | ldVxDt x =>
    have hr : r ≠ x := by simpa [writesReg] using hw
    cases h
    rw [publish_reg, reg_setReg, if_neg hr]; rfl
  | orVxVy x | andVxVy x | xorVxVy x =>
    have hr : r ≠ x ∧ ¬ (s.params.quirkLogicVfReset = true ∧ r = vf) := by
      simpa [writesReg] using hw
    cases h
    rw [publish_reg, reg_setLogicResult, advance_params, if_neg hr.2, if_neg hr.1, advance_reg]
  | addVxVy x | sub x | subn x | shr x | shl x =>
    have hr : r ≠ x ∧ r ≠ vf := by simpa [writesReg] using hw
    cases h
    rw [publish_reg, reg_setResultFlag, if_neg hr.2, if_neg hr.1, advance_reg]
  | _ => exact exec_sameRegs h (by simp [writesOf]) r

/-! ### What a transition does besides stepping the engine and loading -/

/-- `t` is `s` but for the timers, `RUN`, the inputs that wait and the strobed outputs: what an
event that is no enabled step and no successful load can change. -/
structure HostMove (s t : State) : Prop where
  v : t.v = s.v
  i : t.i = s.i
  pc : t.pc = s.pc
  stack : t.stack = s.stack
  sp : t.sp = s.sp
  mem : t.mem = s.mem
  disp : t.disp = s.disp
  fault : t.fault = s.fault
  params : t.params = s.params
  randIx : t.randIx = s.randIx
  dispOut : t.dispOut = s.dispOut

theorem hostMove_drive (s : State) (o : Output) : HostMove s (s.drive o) := by
  constructor <;> rfl

theorem hostMove_start (s : State) : HostMove s s.start := by constructor <;> rfl

theorem hostMove_halt (s : State) : HostMove s s.halt := by constructor <;> rfl

theorem hostMove_setKeys (s : State) (held : BitVec 16) : HostMove s (s.setKeys held) := by
  constructor <;> rfl

theorem hostMove_tick (s : State) : HostMove s s.tick := by
  cases hr : s.run with
  | running => rw [tick_running hr]; constructor <;> rfl
  | stopped => rw [tick_stopped hr]; exact hostMove_drive ..

theorem hostMove_nextEvent (s : State) : HostMove s s.nextEvent.2 := by
  rw [nextEvent_eq]; constructor <;> rfl

/-- The machine after a load of a ROM that fits (R253). -/
def State.loaded (s : State) (rom : List Byte) : State :=
  (s.resetBlock.setMem (Memory.writeBytes [] programBase rom)).drive
    { Output.silent with load := some .ok }

/-- Every event is a step of the engine, a load that succeeds, or a move of the host. -/
theorem handle_cases {s t : State} {e : Event} (h : s.handle e = .next t) :
    (e = .step ∧ s.engineStep = .next t) ∨
      (∃ rom, e = .load rom ∧ 0x200 + rom.length ≤ 4096 ∧ t = s.loaded rom) ∨ HostMove s t := by
  cases e with
  | step => exact .inl ⟨rfl, h⟩
  | tick => cases h; exact .inr (.inr (hostMove_tick s))
  | run => cases h; exact .inr (.inr (hostMove_start s))
  | stop => cases h; exact .inr (.inr (hostMove_halt s))
  | keys held => cases h; exact .inr (.inr (hostMove_setKeys s held))
  | load rom =>
    cases h
    obtain ⟨hfit, hl⟩ | ⟨-, hl⟩ := loadRom_cases s rom
    · exact .inr (.inl ⟨rom, rfl, hfit, hl⟩)
    · rw [hl]; exact .inr (.inr (hostMove_drive ..))

/-- What moves of the host, successful loads and steps of the enabled engine keep, every transition
keeps. -/
theorem step_keeps {P : State → Prop} (hhost : ∀ s t, P s → HostMove s t → P t)
    (hload : ∀ s rom, P s → 0x200 + rom.length ≤ 4096 → P (s.loaded rom))
    (hengine : ∀ s t, P s → s.engineEnabled → s.engineStep = .next t → P t) (s t : State)
    (hs : P s) (h : step s = .next t) : P t := by
  have hs' := hhost _ _ hs (hostMove_nextEvent s)
  rw [step_eq] at h
  obtain ⟨-, h⟩ | ⟨rom, -, hfit, rfl⟩ | hm := handle_cases h
  · by_cases he : s.nextEvent.2.engineEnabled
    · exact hengine _ _ hs' he h
    · rw [engineStep_disabled he] at h
      cases h
      exact hhost _ _ hs' (hostMove_drive ..)
  · exact hload _ _ hs' hfit
  · exact hhost _ _ hs' hm

/-! ### Addresses stay bounded -/

theorem AddressesBounded.of_eq {s t : State} (h : AddressesBounded s) (hpc : t.pc = s.pc)
    (hstack : t.stack = s.stack) : AddressesBounded t := by
  unfold AddressesBounded
  rw [hpc, hstack]
  exact h

theorem addressesBounded_loaded (s : State) (rom : List Byte) : AddressesBounded (s.loaded rom) :=
  ⟨by simp [State.loaded], fun k => by simp [State.loaded]⟩

/-- Every row of R25's table stays at or below 0x10FE, the largest target of `BNNN` (R26, R146). -/
theorem pcAfter_le {s : State} (h : AddressesBounded s) (hpc : s.pc.toNat ≤ 0xFFE) (i : Instr) :
    (pcAfter s i).toNat ≤ 0x10FE := by
  obtain ⟨-, hstack⟩ := h
  have h2 : (s.pc + 2).toNat ≤ 0x10FE := by bv_omega
  have h4 : (s.pc + 4).toNat ≤ 0x10FE := by bv_omega
  cases i with
  | ret =>
    rw [pcAfter]
    split
    · have hk := hstack ⟨s.sp.val - 1, by omega⟩
      exact le_trans hk (by decide)
    · omega
  | jp nnn | call nnn =>
    have := nnn.isLt
    simp only [pcAfter, BitVec.toNat_ofNat]; omega
  | jpV0 nnn =>
    have := nnn.isLt
    simp only [pcAfter, BitVec.toNat_ofNat]
    generalize s.reg _ = b
    have := b.isLt
    omega
  | seVxNn | sneVxNn | seVxVy | sneVxVy | skp | sknp => rw [pcAfter]; split <;> assumption
  | ldVxK x => rw [pcAfter]; split <;> omega
  | _ => exact h2

/-- An instruction leaves a stack entry as it was, or sets it to the return address (R141). -/
theorem exec_stack {i : Instr} {s t : State} (h : exec i s = .next t) (k : Fin 16) :
    t.stack[k] = s.stack[k] ∨ t.stack[k] = s.pc + 2 := by
  cases i with
  | ret =>
    obtain ⟨-, hf⟩ | ⟨_, hu⟩ := exec_ret_cases s
    · rw [hf.next_eq h]; exact .inl rfl
    · rw [next_eq_of_commit hu h]; exact .inl rfl
  | call nnn =>
    obtain ⟨-, hf⟩ | ⟨hsp, hu⟩ := exec_call_cases nnn s
    · rw [hf.next_eq h]; exact .inl rfl
    · rw [next_eq_of_commit hu h]
      simp only [publish_stack, setPc_stack, Fin.getElem_fin, Vector.getElem_set]
      split
      · exact .inr rfl
      · exact .inl rfl
  | _ =>
    obtain ⟨-, faddr, rfl⟩ | ⟨u, rfl, hk⟩ := exec_next_cases h
    · exact .inl rfl
    · obtain ⟨-, hstack⟩ := hk.stack (by simp [writesOf])
      rw [publish_stack, hstack]
      exact .inl rfl

theorem exec_addressesBounded {i : Instr} {s t : State} (hs : AddressesBounded s)
    (hpc : s.pc.toNat ≤ 0xFFE) (h : exec i s = .next t) : AddressesBounded t := by
  have ⟨hpc0, hstack⟩ := hs
  constructor
  · obtain ⟨-, ht⟩ | ⟨-, ht, -⟩ := programCounterFollowsItsTable i s t h
    · rw [ht]; exact pcAfter_le hs hpc i
    · rw [ht]; exact hpc0
  · intro k
    obtain hk | hk := exec_stack h k
    · rw [hk]; exact hstack k
    · rw [hk]; bv_omega

theorem engineStep_addressesBounded {s t : State} (hs : AddressesBounded s)
    (h : s.engineStep = .next t) : AddressesBounded t := by
  obtain ⟨-, rfl⟩ | ⟨-, -, rfl⟩ | ⟨-, hpc, w, -, -, rfl⟩ | ⟨-, hpc, w, i, -, -, hi⟩ :=
    engineStep_cases h
  · exact hs.of_eq rfl rfl
  · exact hs.of_eq rfl rfl
  · obtain ⟨-, hstack⟩ := hs
    exact ⟨by rw [skipUnknown_pc]; bv_omega, hstack⟩
  · exact exec_addressesBounded hs hpc hi

/-- Settles O54: a step of the engine starts at or below 0xFFE or faults in place, so no row of the
table of `pc` passes 0x10FE and no pushed address passes 0x1000. -/
theorem addressesStayBounded : Obligations.AddressesStayBounded :=
  step_keeps (fun _ _ hs hm => hs.of_eq hm.pc hm.stack)
    (fun s rom _ _ => addressesBounded_loaded s rom)
    (fun _ _ hs _ h => engineStep_addressesBounded hs h)

/-! ### The fault record stays consistent -/

theorem FaultConsistent.of_eq {s t : State} (h : FaultConsistent s) (hfault : t.fault = s.fault)
    (hpc : t.pc = s.pc) (hsp : t.sp = s.sp) : FaultConsistent t := by
  unfold FaultConsistent
  rw [hfault, hpc, hsp]
  exact h

theorem faultConsistent_of_clear {s : State} (h : s.fault = FaultRecord.clear) :
    FaultConsistent s := by
  unfold FaultConsistent
  rw [h]
  rfl

theorem FaultConsistent.clear {s : State} (h : FaultConsistent s) (hc : s.fault.cause = .none) :
    s.fault = FaultRecord.clear := by
  simpa only [FaultConsistent, hc] using h

/-- The first out-of-range address as the 16-bit field of the record (R211). -/
theorem badAddress_ge (a : Word) : 0x1000 ≤ (BitVec.ofNat 16 (max a.toNat 0x1000)).toNat := by
  have := a.isLt
  rw [BitVec.toNat_ofNat]; omega

theorem faultConsistent_invalidAddress (s : State) (w a : Word) : FaultConsistent
    (s.takeFault .invalidAddress w (BitVec.ofNat 16 (max a.toNat 0x1000))) :=
  ⟨rfl, badAddress_ge a⟩

/-- What an instruction commits keeps the fault record. -/
theorem fault_eq_of_commit {i : Instr} {s t u : State} (hu : exec i s = u.commit)
    (h : exec i s = .next t) : t.fault = s.fault := by
  have ht := next_eq_of_commit hu h
  obtain ⟨-, faddr, rfl⟩ | ⟨u', rfl, hk⟩ := exec_next_cases h
  · have hout := congrArg State.out ht
    cases hout
  · exact hk.fault

/-- An instruction that starts with a clear record leaves it clear, or writes its own fault. -/
theorem exec_faultConsistent {i : Instr} {s t : State} (hs : s.fault = FaultRecord.clear)
    (h : exec i s = .next t) : FaultConsistent t := by
  have hcommit {u : State} (hu : exec i s = u.commit) : FaultConsistent t :=
    faultConsistent_of_clear ((fault_eq_of_commit hu h).trans hs)
  have hbad {a : Word}
      (hf : FaultsWith i s .invalidAddress (BitVec.ofNat 16 (max a.toNat 0x1000))) :
      FaultConsistent t := by
    rw [hf.next_eq h]; exact faultConsistent_invalidAddress s _ a
  cases i with
  | ret =>
    obtain ⟨hsp, hf⟩ | ⟨_, hu⟩ := exec_ret_cases s
    · rw [hf.next_eq h]; exact ⟨rfl, rfl, hsp, rfl⟩
    · exact hcommit hu
  | call nnn =>
    obtain ⟨hsp, hf⟩ | ⟨_, hu⟩ := exec_call_cases nnn s
    · rw [hf.next_eq h]; exact ⟨rfl, rfl, hsp, fieldOp_joinA 0x2 nnn⟩
    · exact hcommit hu
  | drw x y n =>
    obtain hf | ⟨_, _, hu⟩ := exec_drw_cases x y n s
    · exact hbad hf
    · exact hcommit hu
  | ldBVx x =>
    obtain hf | ⟨_, hu⟩ := exec_ldBVx_cases x s
    · exact hbad hf
    · exact hcommit hu
  | ldMemVx x =>
    obtain hf | ⟨_, hu⟩ := exec_ldMemVx_cases x s
    · exact hbad hf
    · exact hcommit hu
  | ldVxMem x =>
    obtain hf | ⟨_, -, hu⟩ := exec_ldVxMem_cases x s
    · exact hbad hf
    · exact hcommit hu
  | ldVxK x =>
    obtain ⟨-, hu⟩ | ⟨-, _, hu⟩ := exec_ldVxK_cases x s
    · exact hcommit hu
    · exact hcommit hu
  | _ => exact hcommit rfl

/-- The enabled engine starts with a clear record; a fetch past memory writes its own (R102). -/
theorem engineStep_faultConsistent {s t : State} (hs : FaultConsistent s) (he : s.engineEnabled)
    (h : s.engineStep = .next t) : FaultConsistent t := by
  have hclear := hs.clear he.2
  obtain ⟨hd, -⟩ | ⟨-, -, rfl⟩ | ⟨-, -, w, -, -, rfl⟩ | ⟨-, -, w, i, -, -, hi⟩ :=
    engineStep_cases h
  · exact absurd he hd
  · exact faultConsistent_invalidAddress s 0 s.pc
  · exact faultConsistent_of_clear hclear
  · exact exec_faultConsistent hclear hi

/-- Settles O55: a fault disables the engine, so `pc` and the depth that it recorded stay; a load
clears the record. -/
theorem faultRecordStaysConsistent : Obligations.FaultRecordStaysConsistent :=
  step_keeps (fun _ _ hs hm => hs.of_eq hm.fault hm.pc hm.sp)
    (fun _ _ _ _ => faultConsistent_of_clear rfl)
    (fun _ _ hs he h => engineStep_faultConsistent hs he h)

/-! ### Steps under DOCUMENTED -/

/-- `DOCUMENTED` decodes to its own six instructions only (R2, R85). -/
theorem isDocumented_of_decodeWord {w : Word} {i : Instr}
    (h : decodeWord .documented w = some i) : i.isDocumented = true := by
  unfold decodeWord at h
  split at h
  · split at h
    · cases h; rfl
    · simp at h
  all_goals cases h
  all_goals rfl

theorem writesOf_of_isDocumented {i : Instr} (h : i.isDocumented = true) :
    Part.memory ∉ writesOf i ∧ Part.stack ∉ writesOf i ∧ Part.timers ∉ writesOf i ∧
      Part.draws ∉ writesOf i := by
  cases i with
  | cls | jp | ldVxNn | addVxNn | ldI | drw => simp [writesOf]
  | _ => cases h

theorem causeOf_of_isDocumented {i : Instr} (h : i.isDocumented = true)
    (hc : causeOf i ≠ .none) : causeOf i = .invalidAddress := by
  cases i with
  | drw => rfl
  | cls | jp | ldVxNn | addVxNn | ldI => exact absurd rfl hc
  | _ => cases h

/-- What a step under `DOCUMENTED` leaves: memory, the call stack, the timers and the draws; the
fault record stays or says InvalidAddress. -/
def DocumentedFrame (s t : State) : Prop :=
  sameMemory s t ∧ sameStack s t ∧ sameTimers s t ∧ t.randIx = s.randIx ∧
    (t.fault = s.fault ∨ t.fault.cause = .invalidAddress)

theorem exec_documentedFrame {i : Instr} {s t : State} (hi : i.isDocumented = true)
    (h : exec i s = .next t) : DocumentedFrame s t := by
  obtain ⟨hc, faddr, rfl⟩ | ⟨u, rfl, hk⟩ := exec_next_cases h
  · exact ⟨fun _ => rfl, ⟨rfl, rfl⟩, ⟨rfl, rfl⟩, rfl, .inr (causeOf_of_isDocumented hi hc)⟩
  · obtain ⟨hmem, hstack, htimers, hdraws⟩ := writesOf_of_isDocumented hi
    exact ⟨hk.memory hmem, hk.stack hstack, hk.timers htimers, hk.draws hdraws, .inl hk.fault⟩

theorem engineStep_documentedFrame {s t : State} (hset : s.params.opcodeSet = .documented)
    (h : s.engineStep = .next t) : DocumentedFrame s t := by
  obtain ⟨-, rfl⟩ | ⟨-, -, rfl⟩ | ⟨-, -, w, -, -, rfl⟩ | ⟨-, -, w, i, -, hd, hi⟩ :=
    engineStep_cases h
  · exact ⟨fun _ => rfl, ⟨rfl, rfl⟩, ⟨rfl, rfl⟩, rfl, .inl rfl⟩
  · exact ⟨fun _ => rfl, ⟨rfl, rfl⟩, ⟨rfl, rfl⟩, rfl, .inr rfl⟩
  · exact ⟨fun _ => rfl, ⟨rfl, rfl⟩, ⟨rfl, rfl⟩, rfl, .inl rfl⟩
  · rw [hset] at hd
    exact exec_documentedFrame (isDocumented_of_decodeWord hd) hi

/-- Settles O49: none of the six instructions writes these parts or can raise a stack fault. -/
theorem documentedStepsLeaveMemoryStackAndTimers :
    Obligations.DocumentedStepsLeaveMemoryStackAndTimers := by
  intro s t hset he h
  rw [step_eq, he] at h
  have hframe := engineStep_documentedFrame (by rw [nextEvent_params, hset]) h
  rw [nextEvent_eq] at hframe
  exact hframe

/-! ### The display -/

theorem display_mem_writesOf {i : Instr} (h : Part.display ∈ writesOf i) :
    i = .cls ∨ ∃ x y n, i = .drw x y n := by
  cases i with
  | cls => exact .inl rfl
  | drw x y n => exact .inr ⟨x, y, n, rfl⟩
  | _ => simp [writesOf] at h

theorem exec_sameDisplay {i : Instr} {s t : State} (h : exec i s = .next t)
    (hi : Part.display ∉ writesOf i) : sameDisplay s t := by
  obtain ⟨-, faddr, rfl⟩ | ⟨u, rfl, hk⟩ := exec_next_cases h
  · exact fun _ _ => rfl
  · exact hk.display hi

/-- A step of the engine leaves the display, or runs `00E0` or `DXYN`. -/
theorem engineStep_sameDisplay_or {s t : State} (h : s.engineStep = .next t) :
    sameDisplay s t ∨ ∃ w i, s.fetchWord s.pc = .ok w ∧
      decodeWord s.params.opcodeSet w = some i ∧ (i = .cls ∨ ∃ x y n, i = .drw x y n) := by
  obtain ⟨-, rfl⟩ | ⟨-, -, rfl⟩ | ⟨-, -, w, -, -, rfl⟩ | ⟨-, -, w, i, hw, hd, hi⟩ :=
    engineStep_cases h
  · exact .inl fun _ _ => rfl
  · exact .inl fun _ _ => rfl
  · exact .inl fun _ _ => rfl
  · by_cases hm : Part.display ∈ writesOf i
    · exact .inr ⟨w, i, hw, hd, display_mem_writesOf hm⟩
    · exact .inl (exec_sameDisplay hi hm)

theorem HostMove.fetchWord_eq {s t : State} (h : HostMove s t) :
    t.fetchWord t.pc = s.fetchWord s.pc := by
  unfold State.fetchWord
  rw [h.mem, h.pc]

/-- Settles O50: moves of the host keep the display, and so does every step of the engine but one
that runs `00E0` or `DXYN`. -/
theorem onlyDrawClearAndLoadChangeTheDisplay :
    Obligations.OnlyDrawClearAndLoadChangeTheDisplay := by
  intro s t px py h hne
  have htaken := hostMove_nextEvent s
  rw [step_eq] at h
  rw [← htaken.disp] at hne
  obtain ⟨he, h⟩ | ⟨rom, he, hfit, -⟩ | hm := handle_cases h
  · obtain hsame | ⟨w, i, hw, hd, hi⟩ := engineStep_sameDisplay_or h
    · exact absurd (hsame px py) hne
    · rw [htaken.fetchWord_eq] at hw
      rw [htaken.params] at hd
      exact .inr ⟨he, w, i, hw, hd, hi⟩
  · exact .inl ⟨rom, he, hfit⟩
  · exact absurd (by rw [hm.disp]) hne

/-! ### The machine at creation -/

/-- Outside the font's 80 bytes the reset contents are 0 (R51, R250). -/
theorem Memory.initial_eq_zero {a : Nat} (h : ¬ (0x050 ≤ a ∧ a < 0x0A0)) :
    Memory.initial a = 0 := by
  unfold Memory.initial fontBase
  split
  · have hlen : fontBytes.length = 0x050 := rfl
    exact List.getD_eq_default _ _ (by omega)
  · rfl

/-- Settles O17: the reset state, field by field. -/
theorem resetLeavesTheSpecValues : Obligations.ResetLeavesTheSpecValues := by
  refine ⟨fun r => ?_, rfl, rfl, rfl, fun k => ?_, rfl, rfl, Display.cell_blank, rfl, rfl,
    fun a ha => Memory.initial_eq_zero ha, rfl⟩
  · simp [State.reset, State.reg]
  · simp [State.reset]

theorem addressesBounded_reset : AddressesBounded State.reset :=
  ⟨by decide, by decide⟩

/-- Settles O56: what the invariants speak of is as in the reset state. -/
theorem createdMachineMeetsTheInvariants : Obligations.CreatedMachineMeetsTheInvariants :=
  fun _ _ _ => ⟨Memory.wf_nil, addressesBounded_reset.of_eq rfl rfl, faultConsistent_of_clear rfl⟩

end Sys2Proof.Machine
end

section
/-!
SUPPORT and PROOFS. The memory family: which cells a canonical memory lists; the two instructions
that store, written out with the bytes they place; what any instruction does to memory; and from
these the canonical form as an invariant, and the fetch of two stored bytes.
-/

namespace Sys2Proof.Machine

/-! ### The cells of a canonical memory -/

/-- A listed cell is what its address reads as: addresses rise, so no earlier cell shadows it. -/
theorem Memory.read_of_mem {m : Memory} (hm : Memory.wf m) {c : Host.Cell} (hc : c ∈ m) :
    Memory.read m c.1 = c.2 := by
  induction m with
  | nil => cases hc
  | cons d m ih =>
    rw [read_cell]
    obtain rfl | hc := List.mem_cons.1 hc
    · rw [if_pos rfl]
    · rw [if_neg (wf_head hm c hc).ne, ih (wf_tail hm) hc]

/-- An address that does not read as its reset content is listed. -/
theorem Memory.mem_of_read_ne_initial {m : Memory} {a : Nat}
    (h : Memory.read m a ≠ Memory.initial a) : (a, Memory.read m a) ∈ m := by
  induction m with
  | nil => exact absurd rfl h
  | cons d m ih =>
    rw [read_cell] at h ⊢
    split at h
    · next hd => subst hd; simp
    · next hd => rw [if_neg hd]; exact List.mem_cons_of_mem _ (ih h)

/-- The cells of a canonical memory are the addresses that do not read as their reset content. -/
theorem Memory.mem_iff {m : Memory} (hm : Memory.wf m) {c : Host.Cell} :
    c ∈ m ↔ Memory.read m c.1 = c.2 ∧ c.2 ≠ Memory.initial c.1 := by
  constructor
  · intro hc
    obtain ⟨-, hne⟩ := hm.2 c hc
    exact ⟨read_of_mem hm hc, hne⟩
  · rintro ⟨hread, hne⟩
    have hc := mem_of_read_ne_initial (m := m) (a := c.1) (by rwa [hread])
    rwa [hread] at hc

/-- Settles O58: memories that read alike list the same cells (`Memory.mem_iff`), and a list whose
addresses rise strictly is fixed by its members. -/
theorem canonicalMemoriesThatReadAlikeAreEqual :
    Obligations.CanonicalMemoriesThatReadAlikeAreEqual := by
  intro m m' hm hm' hread
  have hirrefl : Std.Irrefl fun c d : Host.Cell => c.1 < d.1 := ⟨fun _ => lt_irrefl _⟩
  have hantisymm : Std.Antisymm fun c d : Host.Cell => c.1 < d.1 :=
    ⟨fun _ _ h h' => absurd h' h.asymm⟩
  refine List.Pairwise.eq_of_mem_iff hm.1 hm'.1 fun c => ?_
  rw [Memory.mem_iff hm, Memory.mem_iff hm', hread]

/-! ### The instructions that store -/

theorem length_regsTo (s : State) (x : Nibble) : (s.regsTo x).length = x.toNat + 1 := by
  simp [State.regsTo]

/-- Byte `k` of the register list is `V[k]` (R84). -/
theorem getD_regsTo (s : State) {x : Nibble} {k : Nat} (h : k ≤ x.toNat) :
    (s.regsTo x).getD k 0 = s.reg (BitVec.ofNat 4 k) := by
  have hk : k < x.toNat + 1 := by omega
  simp [State.regsTo, List.getD_eq_getElem?_getD, hk]

theorem length_decimalDigits (b : Byte) : (decimalDigits b).length = 3 := rfl

/-- `FX33` stores the three digits of V[x] when they fit, and faults when they do not (R190). -/
theorem exec_ldBVx_stores_or_faults (x : Nibble) (s : State) :
    (s.i.toNat + 2 ≤ 0xFFF ∧ exec (.ldBVx x) s = (s.advance.setMem
        (Memory.writeBytes s.mem s.i.toNat (decimalDigits (s.reg x)))).commit) ∨
      (0xFFF < s.i.toNat + 2 ∧
        FaultsWith (.ldBVx x) s .invalidAddress (BitVec.ofNat 16 (max s.i.toNat 0x1000))) := by
  have hlen := length_decimalDigits (s.reg x)
  obtain ⟨hfit, hw⟩ | ⟨-, hbad, hw⟩ := memWrite_cases s.advance s.i.toNat (decimalDigits (s.reg x))
  · rw [hlen, memSize] at hfit
    exact .inl ⟨by omega, by simp only [exec, execLdBVx, hw]; rfl⟩
  · rw [hlen, memSize] at hbad
    exact .inr ⟨by omega, by simp only [FaultsWith, exec, execLdBVx, hw]; rfl⟩

/-- `FX55` stores V0..V[x] when they fit, and faults when they do not (R191). -/
theorem exec_ldMemVx_stores_or_faults (x : Nibble) (s : State) :
    (s.i.toNat + x.toNat ≤ 0xFFF ∧ exec (.ldMemVx x) s = ((s.advance.setMem
        (Memory.writeBytes s.mem s.i.toNat (s.regsTo x))).incrementI x).commit) ∨
      (0xFFF < s.i.toNat + x.toNat ∧
        FaultsWith (.ldMemVx x) s .invalidAddress (BitVec.ofNat 16 (max s.i.toNat 0x1000))) := by
  have hlen := length_regsTo s x
  obtain ⟨hfit, hw⟩ | ⟨-, hbad, hw⟩ := memWrite_cases s.advance s.i.toNat (s.regsTo x)
  · rw [hlen, memSize] at hfit
    exact .inl ⟨by omega, by simp only [exec, execLdMemVx, hw]; rfl⟩
  · rw [hlen, memSize] at hbad
    exact .inr ⟨by omega, by simp only [FaultsWith, exec, execLdMemVx, hw]; rfl⟩

/-! ### What an instruction does to memory -/

@[simp] theorem mem_skipIf (s : State) (c : Bool) : (s.skipIf c).mem = s.mem := by
  rw [skipIf_eq, setPc_mem]

@[simp] theorem mem_incrementI (s : State) (x : Nibble) : (s.incrementI x).mem = s.mem := by
  rw [incrementI_eq, setI_mem]

@[simp] theorem mem_setRegs (s : State) (k : Nat) (bs : List Byte) :
    (s.setRegs k bs).mem = s.mem := by
  rw [setRegs_eq]

@[simp] theorem mem_setLogicResult (s : State) (x : Nibble) (b : Byte) :
    (s.setLogicResult x b).mem = s.mem := by
  rw [setLogicResult_eq]

theorem mem_eq_of_commit {i : Instr} {s t u : State} (hu : exec i s = u.commit)
    (h : exec i s = .next t) : t.mem = u.mem := by
  rw [next_eq_of_commit hu h, publish_mem]

/-- The memory of `t` is that of `s`, the same data, or `s`'s with consecutive bytes written inside
the address space (R56, R62). -/
def MemoryKeptOrWritten (s t : State) : Prop :=
  t.mem = s.mem ∨ ∃ a bs, a + bs.length ≤ memSize ∧ t.mem = Memory.writeBytes s.mem a bs

/-- No instruction does more to memory: `FX33` and `FX55` write it, and every other one keeps it. -/
theorem exec_memoryKeptOrWritten {i : Instr} {s t : State} (h : exec i s = .next t) :
    MemoryKeptOrWritten s t := by
  have hfault {c : Cause} {faddr : Word} (hf : FaultsWith i s c faddr) :
      MemoryKeptOrWritten s t := .inl (by rw [hf.next_eq h]; rfl)
  have hcommit {u : State} (hu : exec i s = u.commit) (hmem : u.mem = s.mem) :
      MemoryKeptOrWritten s t := .inl ((mem_eq_of_commit hu h).trans hmem)
  cases i with
  | ldBVx x =>
    obtain ⟨hfit, hu⟩ | ⟨-, hf⟩ := exec_ldBVx_stores_or_faults x s
    · refine .inr ⟨s.i.toNat, decimalDigits (s.reg x), ?_, mem_eq_of_commit hu h⟩
      rw [length_decimalDigits, memSize]; omega
    · exact hfault hf
  | ldMemVx x =>
    obtain ⟨hfit, hu⟩ | ⟨-, hf⟩ := exec_ldMemVx_stores_or_faults x s
    · refine .inr ⟨s.i.toNat, s.regsTo x, ?_,
        (mem_eq_of_commit hu h).trans (mem_incrementI _ x)⟩
      rw [length_regsTo, memSize]; omega
    · exact hfault hf
  | ret =>
    obtain ⟨-, hf⟩ | ⟨_, hu⟩ := exec_ret_cases s
    · exact hfault hf
    · exact hcommit hu rfl
  | call nnn =>
    obtain ⟨-, hf⟩ | ⟨_, hu⟩ := exec_call_cases nnn s
    · exact hfault hf
    · exact hcommit hu rfl
  | drw x y n =>
    obtain hf | ⟨d, b, hu⟩ := exec_drw_cases x y n s
    · exact hfault hf
    · exact hcommit hu rfl
  | ldVxMem x =>
    obtain hf | ⟨bs, -, hu⟩ := exec_ldVxMem_cases x s
    · exact hfault hf
    · exact hcommit hu (by rw [mem_incrementI, mem_setRegs, advance_mem])
  | ldVxK x =>
    obtain ⟨-, hu⟩ | ⟨-, b, hu⟩ := exec_ldVxK_cases x s
    · exact hcommit hu rfl
    · exact hcommit hu rfl
  | seVxNn | seVxVy | sneVxNn | sneVxVy | skp | sknp => exact hcommit rfl (mem_skipIf _ _)
  | orVxVy | andVxVy | xorVxVy => exact hcommit rfl (mem_setLogicResult _ _ _)
  | _ => exact hcommit rfl rfl

/-! ### The canonical form is an invariant -/

theorem MemoryCanonical.of_eq {s t : State} (h : MemoryCanonical s) (hmem : t.mem = s.mem) :
    MemoryCanonical t := by
  unfold MemoryCanonical
  rw [hmem]
  exact h

theorem memoryCanonical_loaded (s : State) {rom : List Byte} (h : 0x200 + rom.length ≤ 4096) :
    MemoryCanonical (s.loaded rom) := Memory.writeBytes_wf Memory.wf_nil rom h

theorem exec_memoryCanonical {i : Instr} {s t : State} (hs : MemoryCanonical s)
    (h : exec i s = .next t) : MemoryCanonical t := by
  obtain hmem | ⟨a, bs, hfit, hmem⟩ := exec_memoryKeptOrWritten h
  · exact hs.of_eq hmem
  · unfold MemoryCanonical
    rw [hmem]
    exact Memory.writeBytes_wf hs bs hfit

theorem engineStep_memoryCanonical {s t : State} (hs : MemoryCanonical s)
    (h : s.engineStep = .next t) : MemoryCanonical t := by
  obtain ⟨-, rfl⟩ | ⟨-, -, rfl⟩ | ⟨-, -, w, -, -, rfl⟩ | ⟨-, -, w, i, -, -, hi⟩ :=
    engineStep_cases h
  · exact hs.of_eq (drive_mem ..)
  · exact hs.of_eq (takeFault_mem ..)
  · exact hs.of_eq (skipUnknown_mem ..)
  · exact exec_memoryCanonical hs hi

/-- Settles O53: the host's moves keep memory, a load writes a ROM that fits into empty memory, and
an instruction writes within the address space or not at all
(`exec_memoryKeptOrWritten`). -/
theorem memoryStaysCanonical : Obligations.MemoryStaysCanonical :=
  step_keeps (fun _ _ hs hm => hs.of_eq hm.mem)
    (fun s _ _ hfit => memoryCanonical_loaded s hfit)
    (fun _ _ hs _ h => engineStep_memoryCanonical hs h)

/-! ### A stored word is fetched -/

/-- With room for them, `FX55` commits, and address `I + k` then reads as `V[k]` (R191). -/
theorem ldMemVx_completes_reads (x : Nibble) {s : State} (hm : MemoryCanonical s)
    (h : s.i.toNat + x.toNat ≤ 0xFFF) :
    Completes (.ldMemVx x) s fun t =>
      ∀ k ≤ x.toNat, Memory.read t.mem (s.i.toNat + k) = s.reg (BitVec.ofNat 4 k) := by
  obtain ⟨-, hu⟩ | ⟨hbad, -⟩ := exec_ldMemVx_stores_or_faults x s
  · refine ⟨_, hu, fun k hk => ?_⟩
    have hlen := length_regsTo s x
    have hfit : s.i.toNat + (s.regsTo x).length ≤ memSize := by rw [hlen, memSize]; omega
    rw [publish_mem, mem_incrementI, setMem_mem, Memory.read_writeBytes hm _ hfit,
      if_pos (by omega), Nat.add_sub_cancel_left, getD_regsTo s hk]
  · omega

/-- Settles O44: `FX55` leaves V0 at the old `I` and V1 above it, and the fetch joins the two with
the lower address as the high byte (R59). -/
theorem storedBytesAreFetched : Obligations.StoredBytesAreFetched := by
  intro x s hm hx h
  obtain ⟨t, ht, hread⟩ := ldMemVx_completes_reads x hm h
  refine ⟨t, ht, ?_⟩
  have h0 : Memory.read t.mem s.i.toNat = s.reg 0 := hread 0 (Nat.zero_le _)
  have h1 : Memory.read t.mem (s.i.toNat + 1) = s.reg 1 := hread 1 hx
  obtain ⟨-, hf⟩ | ⟨hbad, -⟩ := fetchWord_cases t s.i
  · rw [h0, h1] at hf
    exact hf
  · omega

end Sys2Proof.Machine
end

section
/-!
SUPPORT and PROOFS. The encoding family: what each part of the decoder reads back and what it
encodes to again, the words that fit each row of the opcode table by the row's format, and from
these the two round trips and the table's rows.
-/

namespace Sys2Proof

/-! ### The two opcode sets -/

/-- `DOCUMENTED` answers nothing that `EXTENDED` does not answer too (R87). -/
theorem decodeWord_extended_of_documented {w : Word} {i : Instr}
    (h : decodeWord .documented w = some i) : decodeWord .extended w = some i := by
  unfold decodeWord at h ⊢
  split at h
  · split at h
    · next hw => rw [if_pos hw]; exact h
    · simp at h
  case h_7 => cases h
  all_goals exact h

/-- Settles O5: outside its six instructions `DOCUMENTED` answers Unknown. -/
theorem documentedWordsKeepTheirInstruction : Obligations.DocumentedWordsKeepTheirInstruction :=
  fun _ _ => decodeWord_extended_of_documented

theorem decodeWord_extended_of_decodeWord {set : OpcodeSet} {w : Word} {i : Instr}
    (h : decodeWord set w = some i) : decodeWord .extended w = some i := by
  cases set with
  | documented => exact decodeWord_extended_of_documented h
  | extended => exact h

/-- The decoder answers only instructions of the set (R2). -/
theorem wf_of_decodeWord {set : OpcodeSet} {w : Word} {i : Instr}
    (h : decodeWord set w = some i) : i.wf set = true := by
  cases set with
  | documented => exact Machine.isDocumented_of_decodeWord h
  | extended => rfl

/-- An instruction outside `DOCUMENTED` is in `EXTENDED` alone (R2). -/
theorem eq_extended_of_wf {set : OpcodeSet} {i : Instr} (h : i.wf set = true)
    (hi : i.isDocumented = false) : set = .extended := by
  cases set with
  | documented => exact absurd h (by rw [Instr.wf, hi]; exact Bool.false_ne_true)
  | extended => rfl

/-! ### Decoding what was encoded -/

/-- The six instructions of `DOCUMENTED` are read back under both sets. -/
theorem decodeWord_encode_of_isDocumented (set : OpcodeSet) {i : Instr}
    (h : i.isDocumented = true) : decodeWord set (encode i) = some i := by
  cases i with
  | cls => rfl
  | jp | ldVxNn | addVxNn | ldI | drw => simp [encode, decodeWord]
  | _ => cases h

/-- The other instructions are read back under `EXTENDED`, by the family of the word's first
nibble and, in the families 8, E and F, by its last one or two (R85). -/
theorem decodeWord_extended_encode {i : Instr} (h : i.isDocumented = false) :
    decodeWord .extended (encode i) = some i := by
  cases i with
  | cls | jp | ldVxNn | addVxNn | ldI | drw => cases h
  | ret => rfl
  | call | jpV0 | seVxNn | sneVxNn | rnd | seVxVy | sneVxVy =>
    simp [encode, decodeWord, decodeExtended]
  | ldVxVy | orVxVy | andVxVy | xorVxVy | addVxVy | sub | shr | subn | shl =>
    simp [encode, decodeWord, decodeExtended, decodeAlu]
  | skp | sknp => simp [encode, decodeWord, decodeExtended, decodeKey]
  | ldVxDt | ldVxK | ldDtVx | ldStVx | addIVx | ldFVx | ldBVx | ldMemVx | ldVxMem =>
    simp [encode, decodeWord, decodeExtended, decodeMisc]

theorem decodeWord_encode {set : OpcodeSet} {i : Instr} (h : i.wf set = true) :
    decodeWord set (encode i) = some i := by
  cases hi : i.isDocumented with
  | true => exact decodeWord_encode_of_isDocumented set hi
  | false => rw [eq_extended_of_wf h hi]; exact decodeWord_extended_encode hi

/-- The decoder on the two bytes of a word that decodes (R59, R80). -/
theorem decode_wordBytes_append {set : OpcodeSet} {w : Word} {i : Instr} (rest : List Byte)
    (h : decodeWord set w = some i) : decode set (wordBytes w ++ rest) = .ok (i, rest) := by
  simp only [wordBytes, List.cons_append, List.nil_append, decode, joinBytes_wordBytes, h]

/-- Settles O1: the two bytes join to the instruction's word, and that decodes to it. -/
theorem decodeReadsBackEncodedInstruction : Obligations.DecodeReadsBackEncodedInstruction :=
  fun _ _ rest h => decode_wordBytes_append rest (decodeWord_encode h)

/-! ### Encoding what was decoded -/

theorem joinA_of_fieldOp {w : Word} {op : Nibble} (h : fieldOp w = op) :
    joinA op (fieldNNN w) = w := by
  rw [← h, joinA_fields]

theorem joinRB_of_fieldOp {w : Word} {op : Nibble} (h : fieldOp w = op) :
    joinRB op (fieldX w) (fieldNN w) = w := by
  rw [← h, joinRB_fields]

theorem joinRRN_of_fieldOp {w : Word} {op : Nibble} (h : fieldOp w = op) :
    joinRRN op (fieldX w) (fieldY w) (fieldN w) = w := by
  rw [← h, joinRRN_fields]

theorem joinRRN_of_fields {w : Word} {op n : Nibble} (h : fieldOp w = op) (hn : fieldN w = n) :
    joinRRN op (fieldX w) (fieldY w) n = w := by
  rw [← hn, joinRRN_of_fieldOp h]

theorem joinRB_of_fields {w : Word} {op : Nibble} {nn : Byte} (h : fieldOp w = op)
    (hnn : fieldNN w = nn) : joinRB op (fieldX w) nn = w := by
  rw [← hnn, joinRB_of_fieldOp h]

theorem encode_of_decodeAlu {x y n : Nibble} {i : Instr} (h : decodeAlu x y n = some i) :
    encode i = joinRRN 0x8 x y n := by
  unfold decodeAlu at h
  split at h
  case h_10 => cases h
  all_goals
    next hn =>
      cases h
      exact congrArg (joinRRN 0x8 x y) (BitVec.eq_of_toNat_eq hn.symm)

theorem encode_of_decodeKey {x : Nibble} {nn : Byte} {i : Instr} (h : decodeKey x nn = some i) :
    encode i = joinRB 0xE x nn := by
  unfold decodeKey at h
  split at h
  case h_3 => cases h
  all_goals
    next hnn =>
      cases h
      exact congrArg (joinRB 0xE x) (BitVec.eq_of_toNat_eq hnn.symm)

theorem encode_of_decodeMisc {x : Nibble} {nn : Byte} {i : Instr}
    (h : decodeMisc x nn = some i) : encode i = joinRB 0xF x nn := by
  unfold decodeMisc at h
  split at h
  case h_10 => cases h
  all_goals
    next hnn =>
      cases h
      exact congrArg (joinRB 0xF x) (BitVec.eq_of_toNat_eq hnn.symm)

theorem encode_of_decodeExtended {w : Word} {i : Instr} (h : decodeExtended w = some i) :
    encode i = w := by
  unfold decodeExtended at h
  split at h
  case h_1 hop | h_7 hop => cases h; exact joinA_of_fieldOp (BitVec.eq_of_toNat_eq hop)
  case h_2 hop | h_3 hop | h_8 hop => cases h; exact joinRB_of_fieldOp (BitVec.eq_of_toNat_eq hop)
  case h_4 hop | h_6 hop =>
    obtain ⟨hn, hi⟩ := Option.ite_none_right_eq_some.1 h
    cases hi
    exact joinRRN_of_fields (BitVec.eq_of_toNat_eq hop) hn
  case h_5 hop => rw [encode_of_decodeAlu h, joinRRN_of_fieldOp (BitVec.eq_of_toNat_eq hop)]
  case h_9 hop => rw [encode_of_decodeKey h, joinRB_of_fieldOp (BitVec.eq_of_toNat_eq hop)]
  case h_10 hop => rw [encode_of_decodeMisc h, joinRB_of_fieldOp (BitVec.eq_of_toNat_eq hop)]
  case h_11 => cases h

theorem encode_of_decodeWord_extended {w : Word} {i : Instr}
    (h : decodeWord .extended w = some i) : encode i = w := by
  unfold decodeWord at h
  split at h
  case h_1 =>
    split at h
    · next hw => cases h; exact hw.symm
    · obtain ⟨⟨-, hw⟩, hi⟩ := Option.ite_none_right_eq_some.1 h
      cases hi
      exact hw.symm
  case h_2 hop | h_5 hop => cases h; exact joinA_of_fieldOp (BitVec.eq_of_toNat_eq hop)
  case h_3 hop | h_4 hop => cases h; exact joinRB_of_fieldOp (BitVec.eq_of_toNat_eq hop)
  case h_6 hop => cases h; exact joinRRN_of_fieldOp (BitVec.eq_of_toNat_eq hop)
  case h_7 => exact encode_of_decodeExtended h

/-- Settles O2: each part of the decoder answers an instruction that encodes to the fields it read,
and a word is the join of its fields. -/
theorem decodedInstructionEncodesToItsWord : Obligations.DecodedInstructionEncodesToItsWord :=
  fun _ _ _ h =>
    ⟨wf_of_decodeWord h, encode_of_decodeWord_extended (decodeWord_extended_of_decodeWord h)⟩

/-! ### The rows of the opcode table -/

/-- Every word that fits the row encodes an instruction with the row's profile. -/
def OpcodeRow.Encodes (r : OpcodeRow) : Prop :=
  ∀ w : Word, r.fits w = true → ∃ i : Instr, i.isDocumented = r.documented ∧ encode i = w

theorem OpcodeRow.fits_iff {r : OpcodeRow} {w : Word} :
    r.fits w = true ↔ w &&& r.mask = r.pattern := beq_iff_eq

/-- A row that fixes every bit (format `W`). -/
theorem encodes_row_W (i : Instr) : OpcodeRow.Encodes ⟨0xFFFF, encode i, i.isDocumented⟩ := by
  intro w h
  rw [OpcodeRow.fits_iff, and_mask_W] at h
  exact ⟨i, rfl, h.symm⟩

/-- A row that fixes the first nibble alone: a word with that nibble encodes what `f` reads
from it (formats `A`, `RB` and `RRN`). -/
theorem encodes_row_op {d : Bool} (op : Nibble) (f : Word → Instr)
    (hf : ∀ w, fieldOp w = op → (f w).isDocumented = d ∧ encode (f w) = w) :
    OpcodeRow.Encodes ⟨0xF000, joinRB op 0 0, d⟩ := by
  intro w h
  rw [OpcodeRow.fits_iff, and_mask_op] at h
  have hop := congrArg fieldOp h
  rw [fieldOp_joinRB, fieldOp_joinRB] at hop
  exact ⟨f w, hf w hop⟩

/-- A row of format `A`. -/
theorem encodes_row_A {d : Bool} (op : Nibble) (c : Addr → Instr)
    (hd : ∀ nnn, (c nnn).isDocumented = d) (hc : ∀ nnn, encode (c nnn) = joinA op nnn) :
    OpcodeRow.Encodes ⟨0xF000, joinRB op 0 0, d⟩ :=
  encodes_row_op op (fun w => c (fieldNNN w)) fun _ hop =>
    ⟨hd _, (hc _).trans (joinA_of_fieldOp hop)⟩

/-- A row of format `RB`. -/
theorem encodes_row_RB {d : Bool} (op : Nibble) (c : Nibble → Byte → Instr)
    (hd : ∀ x nn, (c x nn).isDocumented = d) (hc : ∀ x nn, encode (c x nn) = joinRB op x nn) :
    OpcodeRow.Encodes ⟨0xF000, joinRB op 0 0, d⟩ :=
  encodes_row_op op (fun w => c (fieldX w) (fieldNN w)) fun _ hop =>
    ⟨hd _ _, (hc _ _).trans (joinRB_of_fieldOp hop)⟩

/-- The row of `DXYN`, the one of format `RRN`. -/
theorem encodes_row_drw : OpcodeRow.Encodes ⟨0xF000, joinRB 0xD 0 0, true⟩ :=
  encodes_row_op 0xD (fun w => .drw (fieldX w) (fieldY w) (fieldN w)) fun _ hop =>
    ⟨rfl, joinRRN_of_fieldOp hop⟩

/-- A row of format `RRF`. -/
theorem encodes_row_RRF {d : Bool} (op n : Nibble) (c : Nibble → Nibble → Instr)
    (hd : ∀ x y, (c x y).isDocumented = d) (hc : ∀ x y, encode (c x y) = joinRRN op x y n) :
    OpcodeRow.Encodes ⟨0xF00F, joinRRN op 0 0 n, d⟩ := by
  intro w h
  rw [OpcodeRow.fits_iff, and_mask_RRF] at h
  have hop := congrArg fieldOp h
  have hn := congrArg fieldN h
  rw [fieldOp_joinRRN, fieldOp_joinRRN] at hop
  rw [fieldN_joinRRN, fieldN_joinRRN] at hn
  exact ⟨c (fieldX w) (fieldY w), hd _ _, (hc _ _).trans (joinRRN_of_fields hop hn)⟩

/-- A row of format `RF`. -/
theorem encodes_row_RF {d : Bool} (op : Nibble) (nn : Byte) (c : Nibble → Instr)
    (hd : ∀ x, (c x).isDocumented = d) (hc : ∀ x, encode (c x) = joinRB op x nn) :
    OpcodeRow.Encodes ⟨0xF0FF, joinRB op 0 nn, d⟩ := by
  intro w h
  rw [OpcodeRow.fits_iff, and_mask_RF] at h
  have hop := congrArg fieldOp h
  have hnn := congrArg fieldNN h
  rw [fieldOp_joinRB, fieldOp_joinRB] at hop
  rw [fieldNN_joinRB, fieldNN_joinRB] at hnn
  exact ⟨c (fieldX w), hd _, (hc _).trans (joinRB_of_fields hop hnn)⟩

theorem encodes_of_mem_opcodeRows : ∀ r ∈ opcodeRows, r.Encodes := by
  simp only [opcodeRows, List.cons_append, List.nil_append, List.forall_mem_cons]
  exact
    ⟨encodes_row_W .cls, encodes_row_W .ret,
      encodes_row_A 0x1 .jp (fun _ => rfl) (fun _ => rfl),
      encodes_row_A 0x2 .call (fun _ => rfl) (fun _ => rfl),
      encodes_row_RB 0x3 .seVxNn (fun _ _ => rfl) (fun _ _ => rfl),
      encodes_row_RB 0x4 .sneVxNn (fun _ _ => rfl) (fun _ _ => rfl),
      encodes_row_RRF 0x5 0x0 .seVxVy (fun _ _ => rfl) (fun _ _ => rfl),
      encodes_row_RB 0x6 .ldVxNn (fun _ _ => rfl) (fun _ _ => rfl),
      encodes_row_RB 0x7 .addVxNn (fun _ _ => rfl) (fun _ _ => rfl),
      encodes_row_RRF 0x8 0x0 .ldVxVy (fun _ _ => rfl) (fun _ _ => rfl),
      encodes_row_RRF 0x8 0x1 .orVxVy (fun _ _ => rfl) (fun _ _ => rfl),
      encodes_row_RRF 0x8 0x2 .andVxVy (fun _ _ => rfl) (fun _ _ => rfl),
      encodes_row_RRF 0x8 0x3 .xorVxVy (fun _ _ => rfl) (fun _ _ => rfl),
      encodes_row_RRF 0x8 0x4 .addVxVy (fun _ _ => rfl) (fun _ _ => rfl),
      encodes_row_RRF 0x8 0x5 .sub (fun _ _ => rfl) (fun _ _ => rfl),
      encodes_row_RRF 0x8 0x6 .shr (fun _ _ => rfl) (fun _ _ => rfl),
      encodes_row_RRF 0x8 0x7 .subn (fun _ _ => rfl) (fun _ _ => rfl),
      encodes_row_RRF 0x8 0xE .shl (fun _ _ => rfl) (fun _ _ => rfl),
      encodes_row_RRF 0x9 0x0 .sneVxVy (fun _ _ => rfl) (fun _ _ => rfl),
      encodes_row_A 0xA .ldI (fun _ => rfl) (fun _ => rfl),
      encodes_row_A 0xB .jpV0 (fun _ => rfl) (fun _ => rfl),
      encodes_row_RB 0xC .rnd (fun _ _ => rfl) (fun _ _ => rfl),
      encodes_row_drw,
      encodes_row_RF 0xE 0x9E .skp (fun _ => rfl) (fun _ => rfl),
      encodes_row_RF 0xE 0xA1 .sknp (fun _ => rfl) (fun _ => rfl),
      encodes_row_RF 0xF 0x07 .ldVxDt (fun _ => rfl) (fun _ => rfl),
      encodes_row_RF 0xF 0x0A .ldVxK (fun _ => rfl) (fun _ => rfl),
      encodes_row_RF 0xF 0x15 .ldDtVx (fun _ => rfl) (fun _ => rfl),
      encodes_row_RF 0xF 0x18 .ldStVx (fun _ => rfl) (fun _ => rfl),
      encodes_row_RF 0xF 0x1E .addIVx (fun _ => rfl) (fun _ => rfl),
      encodes_row_RF 0xF 0x29 .ldFVx (fun _ => rfl) (fun _ => rfl),
      encodes_row_RF 0xF 0x33 .ldBVx (fun _ => rfl) (fun _ => rfl),
      encodes_row_RF 0xF 0x55 .ldMemVx (fun _ => rfl) (fun _ => rfl),
      encodes_row_RF 0xF 0x65 .ldVxMem (fun _ => rfl) (fun _ => rfl),
      List.forall_mem_nil _⟩

/-- Every instruction's word fits a row of the table with the instruction's profile. -/
theorem encode_fitsTable (i : Instr) : Laws.FitsTable.Statement i :=
  match i with
  | .cls => Laws.FitsTable.cls
  | .ret => Laws.FitsTable.ret
  | .jp nnn => Laws.FitsTable.jp nnn
  | .call nnn => Laws.FitsTable.call nnn
  | .seVxNn x nn => Laws.FitsTable.seVxNn x nn
  | .sneVxNn x nn => Laws.FitsTable.sneVxNn x nn
  | .seVxVy x y => Laws.FitsTable.seVxVy x y
  | .ldVxNn x nn => Laws.FitsTable.ldVxNn x nn
  | .addVxNn x nn => Laws.FitsTable.addVxNn x nn
  | .ldVxVy x y => Laws.FitsTable.ldVxVy x y
  | .orVxVy x y => Laws.FitsTable.orVxVy x y
  | .andVxVy x y => Laws.FitsTable.andVxVy x y
  | .xorVxVy x y => Laws.FitsTable.xorVxVy x y
  | .addVxVy x y => Laws.FitsTable.addVxVy x y
  | .sub x y => Laws.FitsTable.sub x y
  | .shr x y => Laws.FitsTable.shr x y
  | .subn x y => Laws.FitsTable.subn x y
  | .shl x y => Laws.FitsTable.shl x y
  | .sneVxVy x y => Laws.FitsTable.sneVxVy x y
  | .ldI nnn => Laws.FitsTable.ldI nnn
  | .jpV0 nnn => Laws.FitsTable.jpV0 nnn
  | .rnd x nn => Laws.FitsTable.rnd x nn
  | .drw x y n => Laws.FitsTable.drw x y n
  | .skp x => Laws.FitsTable.skp x
  | .sknp x => Laws.FitsTable.sknp x
  | .ldVxDt x => Laws.FitsTable.ldVxDt x
  | .ldVxK x => Laws.FitsTable.ldVxK x
  | .ldDtVx x => Laws.FitsTable.ldDtVx x
  | .ldStVx x => Laws.FitsTable.ldStVx x
  | .addIVx x => Laws.FitsTable.addIVx x
  | .ldFVx x => Laws.FitsTable.ldFVx x
  | .ldBVx x => Laws.FitsTable.ldBVx x
  | .ldMemVx x => Laws.FitsTable.ldMemVx x
  | .ldVxMem x => Laws.FitsTable.ldVxMem x

/-- A row belongs to the sets that have an instruction of its profile (R2). -/
theorem OpcodeRow.isIn_eq_wf {r : OpcodeRow} {i : Instr} (h : r.documented = i.isDocumented)
    (set : OpcodeSet) : r.isIn set = i.wf set := by
  cases set with
  | documented => exact h
  | extended => rfl

/-- Settles O3: what a word decodes to encodes to it again and so fits its row; a word that fits a
row encodes an instruction of the row's profile and so decodes to it. -/
theorem wordDecodesExactlyWhenATableRowFits :
    Obligations.WordDecodesExactlyWhenATableRowFits := by
  intro set w
  rw [Option.isSome_iff_exists]
  constructor
  · rintro ⟨i, hi⟩
    obtain ⟨hwf, rfl⟩ := decodedInstructionEncodesToItsWord set w i hi
    obtain ⟨r, hr, hprofile, hmask⟩ := encode_fitsTable i
    exact ⟨r, hr, (OpcodeRow.isIn_eq_wf hprofile set).trans hwf, OpcodeRow.fits_iff.2 hmask⟩
  · rintro ⟨r, hr, hin, hfits⟩
    obtain ⟨i, hprofile, rfl⟩ := encodes_of_mem_opcodeRows r hr w hfits
    exact ⟨i, decodeWord_encode ((OpcodeRow.isIn_eq_wf hprofile.symm set).symm.trans hin)⟩

/-- Two rows that one word fits fix the same values in the bits that both fix. -/
theorem OpcodeRow.patterns_agree_of_fits {r q : OpcodeRow} {w : Word} (hr : r.fits w = true)
    (hq : q.fits w = true) : r.pattern &&& q.mask = q.pattern &&& r.mask := by
  rw [fits_iff] at hr hq
  rw [← hr, ← hq, BitVec.and_assoc, BitVec.and_assoc, BitVec.and_comm r.mask]

/-- Any two rows of the table fix some bit in common at different values. -/
theorem opcodeRows_pairwise_patterns_differ :
    opcodeRows.Pairwise fun r q => r.pattern &&& q.mask ≠ q.pattern &&& r.mask := by decide

/-- Settles O4: a word in two rows would make their patterns agree in the bits that both fix. -/
theorem opcodeTableRowsArePairwiseDisjoint : Obligations.OpcodeTableRowsArePairwiseDisjoint :=
  opcodeRows_pairwise_patterns_differ.imp fun hne _ ⟨hr, hq⟩ =>
    hne (OpcodeRow.patterns_agree_of_fits hr hq)

/-- Settles O6: the eight words are the encodings of their instructions, and the decoder evaluated
on the other four answers Unknown. -/
theorem sampleWordsDecode : Obligations.SampleWordsDecode :=
  ⟨decodeWord_encode (i := .cls) rfl, decodeWord_encode (i := .ret) rfl,
    decodeWord_encode (i := .jp 0x234) rfl, decodeWord_encode (i := .jpV0 0x3FF) rfl,
    decodeWord_encode (i := .ldVxNn 0xA 0x42) rfl, decodeWord_encode (i := .drw 0x1 0x2 0x5) rfl,
    decodeWord_encode (i := .shl 0xF 0x1) rfl, decodeWord_encode (i := .ldVxMem 0x3) rfl,
    by decide, by decide, by decide, by decide⟩

end Sys2Proof
end

section
/-!
SUPPORT and PROOFS. The step cycle family: what the state in which an event has been taken shares
with the state before, the four ends of a step strobe, that every transition answers a next state,
and which transitions publish.
-/

namespace Sys2Proof.Machine

/-! ### The state in which the event has been taken -/

theorem hostMove_taken {s s' : State} {e : Event} (h : s.nextEvent = (e, s')) : HostMove s s' := by
  rw [taken_eq h]; constructor <;> rfl

theorem engineEnabled_nextEvent (s : State) :
    s.nextEvent.2.engineEnabled ↔ s.engineEnabled := by rw [nextEvent_eq]

theorem engineEnabled_taken {s s' : State} {e : Event} (h : s.nextEvent = (e, s')) :
    s'.engineEnabled ↔ s.engineEnabled := by rw [← engineEnabled_nextEvent s, h]

/-! ### The two answers of the fetch -/

theorem fetchWord_of_le {s : State} {a : Word} (h : a.toNat ≤ 0xFFE) :
    s.fetchWord a =
      .ok (joinBytes (Memory.read s.mem a.toNat) (Memory.read s.mem (a.toNat + 1))) := by
  obtain ⟨-, hf⟩ | ⟨hlt, -⟩ := fetchWord_cases s a
  · exact hf
  · exact absurd h (Nat.not_le_of_lt hlt)

theorem fetchWord_of_lt {s : State} {a : Word} (h : 0xFFE < a.toNat) :
    s.fetchWord a = .error (max a.toNat 0x1000) := by
  obtain ⟨hle, -⟩ | ⟨-, hf⟩ := fetchWord_cases s a
  · exact absurd hle (Nat.not_le_of_lt h)
  · exact hf

/-- After the strobe has been taken the engine fetches the word that stood at `pc` before. -/
theorem fetchWord_taken_of_le {s s' : State} {e : Event} (h : s.nextEvent = (e, s'))
    (hpc : s.pc.toNat ≤ 0xFFE) : s'.fetchWord s'.pc =
      .ok (joinBytes (Memory.read s.mem s.pc.toNat) (Memory.read s.mem (s.pc.toNat + 1))) :=
  (hostMove_taken h).fetchWord_eq.trans (fetchWord_of_le hpc)

/-! ### The four ends of a step strobe -/

/-- Settles O7: the engine is enabled and fetches the same word in the state without the strobe. -/
theorem stepRunsTheDecodedInstruction : Obligations.StepRunsTheDecodedInstruction := by
  intro s s' i h hrun hfault hpc hd
  have he : s'.engineEnabled := (engineEnabled_taken h).2 ⟨hrun, hfault⟩
  have hf := fetchWord_taken_of_le h hpc
  rw [← (hostMove_taken h).params] at hd
  exact ⟨(step_of_event h).trans (engineStep_exec he hf hd), taken_eq h⟩

/-- What an UnknownOpcode step changes, as one update (R106). -/
theorem skipUnknown_eq (s : State) (w : Word) : s.skipUnknown w =
    { s with pc := s.pc + 2, dispOut := s.disp, out := ⟨true, some ⟨s.pc, w⟩, none, none⟩ } := rfl

/-- Settles O8: the engine's step is `skipUnknown`, at the `pc` and display of `s`. -/
theorem stepReportsAndSkipsUnknownOpcode : Obligations.StepReportsAndSkipsUnknownOpcode := by
  intro s s' w h hrun hfault hpc hw hd
  have hm := hostMove_taken h
  have he : s'.engineEnabled := (engineEnabled_taken h).2 ⟨hrun, hfault⟩
  have hf := fetchWord_taken_of_le h hpc
  rw [← hw] at hf
  rw [← hm.params] at hd
  rw [← hm.pc, ← hm.disp, ← skipUnknown_eq]
  exact (step_of_event h).trans (engineStep_unknown he hf hd)

/-- Settles O9: the fetch answers the first address above 0xFFF, and the engine takes the fault. -/
theorem fetchPastMemoryFaults : Obligations.FetchPastMemoryFaults := by
  intro s s' h hrun hfault hpc
  have he : s'.engineEnabled := (engineEnabled_taken h).2 ⟨hrun, hfault⟩
  have hf := (hostMove_taken h).fetchWord_eq.trans (fetchWord_of_lt hpc)
  exact (step_of_event h).trans (engineStep_fetchFault he hf)

/-- Settles O10: taking the strobe enables nothing, and a disabled engine only falls silent. -/
theorem stepStrobeIsIgnoredWhenNotEnabled : Obligations.StepStrobeIsIgnoredWhenNotEnabled := by
  intro s s' h hoff
  have hd : ¬ s'.engineEnabled := by
    rw [engineEnabled_taken h]
    rintro ⟨hrun, hfault⟩
    obtain hstop | hcause := hoff
    · rw [hstop] at hrun; cases hrun
    · exact hcause hfault
  exact (step_of_event h).trans (engineStep_disabled hd)

/-! ### Every transition answers a next state -/

theorem exec_answers (i : Instr) (s : State) : ∃ t, exec i s = .next t := by
  obtain ⟨-, faddr, hf⟩ | ⟨u, hu, -⟩ := exec_faultsOrCommits i s
  · exact ⟨_, hf⟩
  · exact ⟨_, hu⟩

/-- Each of the four ends of the engine's step is a next state (R109, R106, R111). -/
theorem engineStep_answers (s : State) : ∃ t, s.engineStep = .next t := by
  by_cases he : s.engineEnabled
  · cases hf : s.fetchWord s.pc with
    | error bad => exact ⟨_, engineStep_fetchFault he hf⟩
    | ok w =>
      cases hd : decodeWord s.params.opcodeSet w with
      | none => exact ⟨_, engineStep_unknown he hf hd⟩
      | some i => rw [engineStep_exec he hf hd]; exact exec_answers i s
  · exact ⟨_, engineStep_disabled he⟩

theorem handle_answers (s : State) (e : Event) : ∃ t, s.handle e = .next t := by
  cases e with
  | step => exact engineStep_answers s
  | tick | run | stop | load | keys => exact ⟨_, rfl⟩

/-- Settles O12: the engine's step answers a next state, and so does every other event. -/
theorem everyStepAnswersANextState : Obligations.EveryStepAnswersANextState :=
  fun s => handle_answers s.nextEvent.2 s.nextEvent.1

/-! ### Which transitions publish -/

/-- The transition to `t` published: `disp_out` shows the display buffer (R108, R243). -/
def Published (t : State) : Prop := t.out.publish = true ∧ t.dispOut = t.disp

/-- The transition from `s` to `t` did not publish, and `disp_out` shows what it showed. -/
def KeptDispOut (s t : State) : Prop := t.out.publish = false ∧ t.dispOut = s.dispOut

/-- An instruction publishes when it commits and not when it faults (R108, R109). -/
theorem exec_published_or_kept {i : Instr} {s t : State} (h : exec i s = .next t) :
    Published t ∨ KeptDispOut s t := by
  obtain ⟨-, faddr, rfl⟩ | ⟨u, rfl, -⟩ := exec_next_cases h
  · exact .inr ⟨rfl, rfl⟩
  · exact .inl ⟨rfl, rfl⟩

/-- Only an enabled engine publishes: on a commit and on an Unknown word (R106, R108). -/
theorem engineStep_published_or_kept {s t : State} (h : s.engineStep = .next t) :
    (s.engineEnabled ∧ Published t) ∨ KeptDispOut s t := by
  obtain ⟨-, rfl⟩ | ⟨-, -, rfl⟩ | ⟨he, -, w, -, -, rfl⟩ | ⟨he, -, w, i, -, -, hi⟩ :=
    engineStep_cases h
  · exact .inr ⟨rfl, rfl⟩
  · exact .inr ⟨rfl, rfl⟩
  · exact .inl ⟨he, rfl, rfl⟩
  · exact (exec_published_or_kept hi).imp_left fun hp => ⟨he, hp⟩

theorem keptDispOut_tick (s : State) : KeptDispOut s s.tick := by
  cases hr : s.run with
  | running => rw [tick_running hr]; exact ⟨rfl, rfl⟩
  | stopped => rw [tick_stopped hr]; exact ⟨rfl, rfl⟩

theorem keptDispOut_loadRom (s : State) (rom : List Byte) : KeptDispOut s (s.loadRom rom) := by
  obtain ⟨-, h⟩ | ⟨-, h⟩ := loadRom_cases s rom
  · rw [h]; exact ⟨rfl, rfl⟩
  · rw [h]; exact ⟨rfl, rfl⟩

/-- Of the events, a step strobe alone can publish; a load is no step (R243). -/
theorem handle_published_or_kept {s t : State} {e : Event} (h : s.handle e = .next t) :
    (e = .step ∧ s.engineEnabled ∧ Published t) ∨ KeptDispOut s t := by
  cases e with
  | step => exact (engineStep_published_or_kept h).imp_left fun hp => ⟨rfl, hp⟩
  | tick => cases h; exact .inr (keptDispOut_tick s)
  | load rom => cases h; exact .inr (keptDispOut_loadRom s rom)
  | run | stop | keys => cases h; exact .inr ⟨rfl, rfl⟩

/-- Settles O59: a transition either publishes, by a step of the enabled engine, or keeps
`disp_out`; and taking the event changes neither. -/
theorem displayOutputHoldsTheLastCompletedStep :
    Obligations.DisplayOutputHoldsTheLastCompletedStep := by
  intro s t h
  rw [step_eq] at h
  obtain ⟨hstep, he, hpub, hout⟩ | ⟨hpub, hout⟩ := handle_published_or_kept h
  · obtain ⟨hrun, hfault⟩ := (engineEnabled_nextEvent s).1 he
    exact ⟨fun _ => ⟨hstep, hrun, hfault, hout⟩, fun hno => by simp [hpub] at hno⟩
  · rw [(hostMove_nextEvent s).dispOut] at hout
    exact ⟨fun hyes => by simp [hpub] at hyes, fun _ => hout⟩

end Sys2Proof.Machine
end

section
/-!
SUPPORT and PROOFS. The documented instructions: the word and the frame of an instruction that
commits, each said once for every instruction; the five instructions that write one place; the
sprite that `DXYN` reads and what a draw leaves; and from that the second draw.
-/

namespace Sys2Proof.Machine

/-! ### Every instruction's word, and its frame when it commits -/

/-- Under each set the encoding of an instruction decodes to it or, outside the set, to nothing. -/
theorem encodedAs_encode (i : Instr) : EncodedAs i (encode i) i.isDocumented := by
  cases hi : i.isDocumented with
  | true =>
    exact ⟨decodeWord_encode_of_isDocumented _ hi, decodeWord_encode_of_isDocumented _ hi⟩
  | false =>
    have hx := decodeWord_extended_encode hi
    refine ⟨hx, Option.eq_none_iff_forall_ne_some.2 fun j hj => ?_⟩
    have hji : j = i := Option.some.inj ((decodeWord_extended_of_documented hj).symm.trans hx)
    rw [← hji, isDocumented_of_decodeWord hj] at hi
    cases hi

/-- An instruction that commits changes what its rule writes, and nothing else (R10, R107). -/
theorem frame_of_commit {i : Instr} {s u : State} (hu : exec i s = u.commit) :
    Frame (writesOf i) s (u.publish Output.published) := by
  obtain ⟨-, faddr, hf⟩ | hframe := instructionsCommitInFrameOrFaultPrecisely i s _ hu
  · have hout : Output.published = Output.silent := congrArg State.out hf
    cases hout
  · exact hframe

/-- An instruction that commits completes, and its frame is at hand for what is to be shown of the
state. -/
theorem completes_of_commit {i : Instr} {s u : State} {property : State → Prop}
    (hu : exec i s = u.commit) (h : Frame (writesOf i) s (u.publish Output.published) →
      property (u.publish Output.published)) : Completes i s property :=
  ⟨_, hu, h (frame_of_commit hu)⟩

/-! ### The instructions that write one place -/

theorem toNat_addrWord (nnn : Addr) : (addrWord nnn).toNat = nnn.toNat :=
  BitVec.toNat_setWidth_of_le (by decide)

/-- Settles O18: the display that `00E0` writes is the blank one. -/
theorem clearBlanksTheDisplay : Obligations.ClearBlanksTheDisplay :=
  fun _ => ⟨encodedAs_encode .cls,
    completes_of_commit rfl fun hframe => ⟨Display.cell_blank, rfl, hframe⟩⟩

/-- Settles O19: `pc` takes the target, extended to 16 bits, in place of the advance. -/
theorem jumpGoesToItsTarget : Obligations.JumpGoesToItsTarget :=
  fun nnn _ => ⟨encodedAs_encode (.jp nnn),
    completes_of_commit rfl fun hframe => ⟨toNat_addrWord nnn, hframe⟩⟩

/-- Settles O20: one register write (`reg_setReg`), with VF no exception. -/
theorem loadImmediateWritesOneRegister : Obligations.LoadImmediateWritesOneRegister :=
  fun x nn s => ⟨encodedAs_encode (.ldVxNn x nn), completes_of_commit rfl fun hframe =>
    ⟨fun r => reg_setReg s.advance x r nn, rfl, hframe⟩⟩

/-- Settles O21: one register write, of the 8-bit sum. -/
theorem addImmediateWrapsAndSetsNoFlag : Obligations.AddImmediateWrapsAndSetsNoFlag := by
  refine fun x nn s => ⟨encodedAs_encode (.addVxNn x nn), completes_of_commit rfl fun hframe =>
    ⟨fun r => ?_, rfl, hframe⟩⟩
  rw [publish_reg, reg_setReg, apply_ite BitVec.toNat, BitVec.toNat_add, advance_reg]

/-- Settles O22: `I` takes the address, extended to 16 bits. -/
theorem loadIndexSetsI : Obligations.LoadIndexSetsI :=
  fun nnn _ => ⟨encodedAs_encode (.ldI nnn),
    completes_of_commit rfl fun hframe => ⟨toNat_addrWord nnn, rfl, hframe⟩⟩

/-! ### The sprite that `DXYN` reads -/

/-- The `n` rows of the sprite at `I` (R125). -/
def State.spriteRows (s : State) (n : Nibble) : List Byte :=
  (List.range n.toNat).map fun k => Memory.read s.mem (s.i.toNat + k)

/-- The display and the collision that `DXYN` computes from the state at its start (R125). -/
def State.drawSprite (s : State) (x y n : Nibble) : Display × Bool :=
  drawRows (s.reg x).toNat (s.reg y).toNat (s.spriteRows n) (s.disp, false)

/-- With every row inside memory `DXYN` writes the drawn display, and then the collision to VF
(R125). -/
theorem exec_drw_draws {x y n : Nibble} {s : State}
    (h : n.toNat = 0 ∨ s.i.toNat + n.toNat - 1 ≤ 0xFFF) :
    exec (.drw x y n) s = ((s.advance.setDisp (s.drawSprite x y n).1).setReg vf
      (flagByte (s.drawSprite x y n).2)).commit := by
  have hr := memRead_ok (s := s) (a := s.i.toNat) (len := n.toNat) (by rw [memSize]; omega)
  simp only [exec, execDrw, hr]
  rfl

/-- With a row past 0xFFF `DXYN` faults at the first address above it (R62, R211). -/
theorem exec_drw_faults {x y n : Nibble} {s : State} (h0 : 0 < n.toNat)
    (h : 0xFFF < s.i.toNat + n.toNat - 1) :
    FaultsWith (.drw x y n) s .invalidAddress (BitVec.ofNat 16 (max s.i.toNat 0x1000)) := by
  have hr := memRead_error (s := s) (a := s.i.toNat) h0 (by rw [memSize]; omega)
  simp only [FaultsWith, exec, execDrw, hr]
  rfl

@[simp] theorem length_spriteRows (s : State) (n : Nibble) :
    (s.spriteRows n).length = n.toNat := by
  simp [State.spriteRows]

theorem getD_spriteRows (s : State) {n : Nibble} {r : Nat} (h : r < n.toNat) :
    (s.spriteRows n).getD r 0 = Memory.read s.mem (s.i.toNat + r) := by
  simp [State.spriteRows, List.getD_eq_getElem?_getD, h]

/-- The cells that the rows read cover are those of the sprite on `s` (R125, R126). -/
theorem rowsCover_spriteRows {s : State} {x y n : Nibble} {px : Fin 64} {py : Fin 32} :
    rowsCover (s.reg x).toNat (s.reg y).toNat (s.spriteRows n) px py ↔
      SpriteCovers s x y n px py := by
  constructor
  · rintro ⟨r, hr, c, hc, hbit, hx, hy⟩
    rw [length_spriteRows] at hr
    rw [getD_spriteRows s hr] at hbit
    exact ⟨r, c, hr, List.mem_range.1 hc, hbit, congrArg Fin.val hx, congrArg Fin.val hy⟩
  · rintro ⟨r, c, hr, hc, hbit, hx, hy⟩
    rw [← getD_spriteRows s hr] at hbit
    exact ⟨r, (length_spriteRows s n).symm ▸ hr, c, List.mem_range.2 hc, hbit, Fin.ext hx,
      Fin.ext hy⟩

theorem length_spriteRows_le (s : State) (n : Nibble) : (s.spriteRows n).length ≤ 32 := by
  have := n.isLt
  rw [length_spriteRows]; omega

theorem cell_drawSprite_of_covers {s : State} {x y n : Nibble} {px : Fin 64} {py : Fin 32}
    (h : SpriteCovers s x y n px py) :
    (s.drawSprite x y n).1.cell px py = !s.disp.cell px py :=
  (drawRows_cell _ _ _ (length_spriteRows_le s n) _ px py).1 (rowsCover_spriteRows.2 h)

theorem cell_drawSprite_of_not_covers {s : State} {x y n : Nibble} {px : Fin 64} {py : Fin 32}
    (h : ¬ SpriteCovers s x y n px py) :
    (s.drawSprite x y n).1.cell px py = s.disp.cell px py :=
  (drawRows_cell _ _ _ (length_spriteRows_le s n) _ px py).2 (mt rowsCover_spriteRows.1 h)

/-- The collision is set exactly when a covered cell was 1 (R127). -/
theorem drawSprite_collision {s : State} {x y n : Nibble} :
    (s.drawSprite x y n).2 = true ↔
      ∃ px py, SpriteCovers s x y n px py ∧ s.disp.cell px py = true := by
  rw [State.drawSprite, drawRows_flag _ _ _ (length_spriteRows_le s n)]
  simp [rowsCover_spriteRows]

/-- Settles O23: the rows are read or the fault is taken, and the loop over the rows flips the
covered cells and finds the collision. -/
theorem drawFlipsCoveredCellsOrFaults : Obligations.DrawFlipsCoveredCellsOrFaults := by
  refine fun x y n s => ⟨encodedAs_encode (.drw x y n), fun h => ?_, exec_drw_faults⟩
  refine completes_of_commit (exec_drw_draws h) fun hframe =>
    ⟨fun _ _ => cell_drawSprite_of_covers, fun _ _ => cell_drawSprite_of_not_covers,
      fun hhit => ?_, fun hmiss => ?_, fun r hr => ?_, rfl, hframe⟩
  · rw [publish_reg, reg_setReg_same, drawSprite_collision.2 hhit]; rfl
  · rw [publish_reg, reg_setReg_same, eq_false_of_ne_true (mt drawSprite_collision.1 hmiss)]; rfl
  · rw [publish_reg, reg_setReg, if_neg hr]; rfl

/-! ### The second draw -/

/-- The sprite lies on the same cells when the coordinates, `I` and memory are the same. -/
theorem spriteCovers_congr {s t : State} {x y n : Nibble} (hx : t.reg x = s.reg x)
    (hy : t.reg y = s.reg y) (hi : t.i = s.i) (hmem : sameMemory s t) (px : Fin 64) (py : Fin 32) :
    SpriteCovers t x y n px py ↔ SpriteCovers s x y n px py := by
  unfold SpriteCovers
  rw [hx, hy, hi]
  simp only [hmem _]

/-- Settles O42: the first draw moves neither the coordinates nor the sprite, so the second flips
the same cells back; on a blank display the second one meets exactly what the first one drew. -/
theorem drawingTwiceRestoresTheDisplay : Obligations.DrawingTwiceRestoresTheDisplay := by
  intro x y n s hx hy h
  obtain ⟨t, ht, tcov, tout, -, tmiss, tregs, -, tframe⟩ :=
    (drawFlipsCoveredCellsOrFaults x y n s).2.1 h
  obtain ⟨-, tindex, -, -, tmem, -⟩ := tframe
  have hi : t.i = s.i := tindex (by decide)
  have hcov := spriteCovers_congr (n := n) (tregs x hx) (tregs y hy) hi (tmem (by decide))
  obtain ⟨u, hu, ucov, uout, uhit, umiss, -⟩ :=
    (drawFlipsCoveredCellsOrFaults x y n t).2.1 (hi ▸ h)
  simp only [hcov] at ucov uout uhit umiss
  refine ⟨t, ht, u, hu, fun px py => ?_, fun hblank => ⟨tmiss ?_, fun hone => ?_, ?_⟩⟩
  · by_cases hc : SpriteCovers s x y n px py
    · rw [ucov px py hc, tcov px py hc, Bool.not_not]
    · rw [uout px py hc, tout px py hc]
  · rintro ⟨px, py, -, hlit⟩
    rw [hblank] at hlit; cases hlit
  · by_contra hno
    have hzero : u.reg vf = 0 := umiss fun ⟨px, py, hc, _⟩ => hno ⟨px, py, hc⟩
    rw [hone] at hzero; cases hzero
  · rintro ⟨px, py, hc⟩
    exact uhit ⟨px, py, hc, by rw [tcov px py hc, hblank]; rfl⟩

end Sys2Proof.Machine
end

section
/-!
PROOFS. Extended control transfer. The skips and `BNNN` commit `pc` at the value of their row of
R25's table; `00EE` and `2NNN` above and below their fault read and write the stack entry that the
depth names; and a return on what a call left.
-/

namespace Sys2Proof.Machine

/-! ### The instructions that write `pc` alone -/

/-- An instruction that commits leaves `pc` at the value of its row of R25's table, and changes
what its rule writes, and nothing else. -/
theorem completes_pcAfter_of_commit {i : Instr} {s u : State} (hu : exec i s = u.commit) :
    Completes i s fun t => t.pc = pcAfter s i ∧ Frame (writesOf i) s t :=
  completes_of_commit hu fun hframe => ⟨exec_pc hu rfl, hframe⟩

/-- Settles O26: both rows of R25's table, with the one condition read both ways. -/
theorem skipsOnAnImmediate : Obligations.SkipsOnAnImmediate :=
  fun x nn _ => ⟨encodedAs_encode (.seVxNn x nn), encodedAs_encode (.sneVxNn x nn),
    completes_pcAfter_of_commit rfl, completes_pcAfter_of_commit rfl⟩

/-- Settles O27: both rows of R25's table, with the one condition read both ways. -/
theorem skipsOnTwoRegisters : Obligations.SkipsOnTwoRegisters :=
  fun x y _ => ⟨encodedAs_encode (.seVxVy x y), encodedAs_encode (.sneVxVy x y),
    completes_pcAfter_of_commit rfl, completes_pcAfter_of_commit rfl⟩

/-- A 12-bit target and an 8-bit offset have their exact sum in 16 bits (R146). -/
theorem toNat_target_add_offset (nnn : Addr) (b : Byte) :
    (BitVec.ofNat 16 (nnn.toNat + b.toNat)).toNat = nnn.toNat + b.toNat := by
  have hnnn := nnn.isLt
  have hb := b.isLt
  rw [BitVec.toNat_ofNat, Nat.mod_eq_of_lt (by omega)]

/-- Settles O28: the sum in `pc`'s row of R25's table does not wrap. -/
theorem jumpV0AddsTheOffsetRegister : Obligations.JumpV0AddsTheOffsetRegister := by
  intro nnn s
  obtain ⟨t, ht, hpc, hframe⟩ := completes_pcAfter_of_commit (i := .jpV0 nnn) (s := s) rfl
  refine ⟨encodedAs_encode (.jpV0 nnn), t, ht, ?_, hframe⟩
  rw [hpc]
  exact toNat_target_add_offset nnn _

/-! ### The call stack -/

/-- With the top entry at `k`, `00EE` takes that entry to `pc` and the depth down to `k` (R140). -/
theorem exec_ret_pops {s : State} {k : Fin 16} (h : s.sp.val = k.val + 1) :
    exec .ret s = ({ s.advance with sp := k.castSucc }.setPc s.stack[k]).commit := by
  obtain ⟨h0, -⟩ | ⟨_, hu⟩ := exec_ret_cases s
  · omega
  · have hk : s.sp.val - 1 = k.val := by omega
    simp only [hu, hk]
    rfl

/-- With `k` entries held, `2NNN` puts the address after it at entry `k` and its target in `pc`
(R141). -/
theorem exec_call_pushes {s : State} {k : Fin 16} (nnn : Addr) (h : s.sp.val = k.val) :
    exec (.call nnn) s =
      ({ s.advance with stack := s.stack.set k.val (s.pc + 2) k.isLt, sp := k.succ }.setPc
        (addrWord nnn)).commit := by
  obtain ⟨hfull, -⟩ | ⟨_, hu⟩ := exec_call_cases nnn s
  · omega
  · simp only [hu, h]
    rfl

/-- Settles O24: above depth 0 the top entry is popped, and at depth 0 only the fault is left. -/
theorem returnPopsOrUnderflows : Obligations.ReturnPopsOrUnderflows := by
  refine fun s => ⟨encodedAs_encode .ret, fun k hk => ?_, fun h0 => ?_⟩
  · exact completes_of_commit (exec_ret_pops hk) fun hframe => ⟨rfl, rfl, rfl, hframe⟩
  · obtain ⟨-, hf⟩ | ⟨hpos, -⟩ := exec_ret_cases s
    · exact hf
    · omega

/-- Settles O25: below depth 16 one entry is written, at the old depth, and at depth 16 only the
fault is left. -/
theorem callPushesOrOverflows : Obligations.CallPushesOrOverflows := by
  refine fun nnn s => ⟨encodedAs_encode (.call nnn), fun k hk => ?_, fun hfull => ?_⟩
  · exact completes_of_commit (exec_call_pushes nnn hk) fun hframe =>
      ⟨toNat_addrWord nnn, rfl, Vector.getElem_set_self k.isLt,
        fun j hj => Vector.getElem_set_ne k.isLt j.isLt (Fin.val_ne_of_ne hj.symm), hframe⟩
  · obtain ⟨-, hf⟩ | ⟨hlt, -⟩ := exec_call_cases nnn s
    · exact hf
    · omega

/-- Settles O29: the call pushes the address after it at the old depth, and the return pops the
entry that the call pushed. -/
theorem returnAfterCallComesBack : Obligations.ReturnAfterCallComesBack := by
  intro nnn s h
  obtain ⟨-, hpush, -⟩ := callPushesOrOverflows nnn s
  obtain ⟨t, ht, -, tsp, tentry, -⟩ := hpush ⟨s.sp.val, h⟩ rfl
  obtain ⟨-, hpop, -⟩ := returnPopsOrUnderflows t
  obtain ⟨u, hu, upc, usp, -⟩ := hpop ⟨s.sp.val, h⟩ tsp
  exact ⟨t, ht, u, hu, upc.trans tentry, Fin.ext usp⟩

end Sys2Proof.Machine
end

section
/-!
PROOFS. Extended ALU. The operations that end the rules of the family are each followed once to the
registers of the committed state: the bitwise result with VF reset under the quirk, and the result
with its flag. What is left of an instruction is the arithmetic of its result and of its flag.
-/

namespace Sys2Proof.Machine

/-! ### The instructions that write one register -/

/-- Settles O30: one register write (`reg_setReg`), with VF no exception. -/
theorem copyRegister : Obligations.CopyRegister :=
  fun x y s => ⟨encodedAs_encode (.ldVxVy x y), completes_of_commit rfl fun hframe =>
    ⟨fun r => reg_setReg s.advance x r (s.reg y), rfl, hframe⟩⟩

/-- Settles O34: one register write, of the masked byte that the counter named before the draw. -/
theorem randomIsADrawMaskedByNn : Obligations.RandomIsADrawMaskedByNn :=
  fun x nn s => ⟨encodedAs_encode (.rnd x nn), completes_of_commit rfl fun hframe =>
    ⟨fun r => reg_setReg s.advance.countDraw x r (Config.rand s.randIx &&& nn), rfl, rfl, hframe⟩⟩

/-! ### OR, AND and XOR -/

/-- An instruction that commits a bitwise result: VF is reset after it under the quirk only. -/
theorem completes_of_commit_setLogicResult {i : Instr} {s : State} {x : Nibble} {b : Byte}
    (hw : writesOf i = [.regs]) (hu : exec i s = (s.advance.setLogicResult x b).commit) :
    Completes i s fun t =>
      (∀ r, t.reg r = if s.params.quirkLogicVfReset = true ∧ r = vf then 0
        else if r = x then b else s.reg r) ∧
      t.pc = s.pc + 2 ∧ Frame [.regs] s t := by
  refine completes_of_commit hu fun hframe => ⟨fun r => ?_, ?_, hw ▸ hframe⟩
  · rw [publish_reg, reg_setLogicResult, advance_params, advance_reg]
  · rw [publish_pc, pc_setLogicResult, advance_pc]

/-- Settles O31: the three rules end in one operation, on their own bitwise results. -/
theorem bitwiseOperations : Obligations.BitwiseOperations :=
  fun x y _ => ⟨encodedAs_encode (.orVxVy x y), encodedAs_encode (.andVxVy x y),
    encodedAs_encode (.xorVxVy x y), completes_of_commit_setLogicResult rfl rfl,
    completes_of_commit_setLogicResult rfl rfl, completes_of_commit_setLogicResult rfl rfl⟩

/-! ### The results with a flag -/

/-- An instruction that commits a result and its flag: the flag is written last (R171). -/
theorem completes_of_commit_setResultFlag {i : Instr} {s : State} {x : Nibble} {b : Byte}
    {f : Bool} {result flag : Nat} (hw : writesOf i = [.regs])
    (hu : exec i s = (s.advance.setResultFlag x b f).commit) (hresult : b.toNat = result)
    (hflag : (flagByte f).toNat = flag) :
    Completes i s fun t =>
      (∀ r, (t.reg r).toNat = if r = vf then flag else if r = x then result
        else (s.reg r).toNat) ∧
      t.pc = s.pc + 2 ∧ Frame [.regs] s t := by
  refine completes_of_commit hu fun hframe => ⟨fun r => ?_, rfl, hw ▸ hframe⟩
  rw [publish_reg, reg_setResultFlag, advance_reg, apply_ite BitVec.toNat, apply_ite BitVec.toNat,
    hresult, hflag]

/-- A flag that a condition decides. -/
theorem toNat_flagByte_decide (p : Prop) [Decidable p] :
    (flagByte (decide p)).toNat = if p then 1 else 0 := by
  by_cases h : p <;> simp [flagByte, h]

/-- The difference modulo 256, as the exact difference of R170 with 256 added. -/
theorem toNat_byte_sub (a b : Byte) : (a - b).toNat = (a.toNat + 256 - b.toNat) % 256 := by
  have := b.isLt
  rw [BitVec.toNat_sub]
  omega

/-- Settles O32: the 8-bit sum and differences, and the flag of each rule decided by its exact
comparison. -/
theorem addAndSubtractSetTheFlag : Obligations.AddAndSubtractSetTheFlag :=
  fun x y _ => ⟨encodedAs_encode (.addVxVy x y), encodedAs_encode (.sub x y),
    encodedAs_encode (.subn x y),
    completes_of_commit_setResultFlag rfl rfl (BitVec.toNat_add ..) (toNat_flagByte_decide _),
    completes_of_commit_setResultFlag rfl rfl (toNat_byte_sub ..) (toNat_flagByte_decide _),
    completes_of_commit_setResultFlag rfl rfl (toNat_byte_sub ..) (toNat_flagByte_decide _)⟩

/-! ### The shifts -/

/-- A byte shifted right by one loses its lowest bit (R166). -/
theorem toNat_byte_shiftRight_one (b : Byte) : (b >>> 1).toNat = b.toNat / 2 := by
  rw [BitVec.toNat_ushiftRight, Nat.shiftRight_eq_div_pow, pow_one]

/-- A byte shifted left by one loses its highest bit (R168). -/
theorem toNat_byte_shiftLeft_one (b : Byte) : (b <<< 1).toNat = b.toNat * 2 % 256 := by
  rw [BitVec.toNat_shiftLeft, Nat.shiftLeft_eq, pow_one]

/-- A bit of a byte as the flag's value. -/
theorem toNat_flagByte_getLsbD (b : Byte) (k : Nat) :
    (flagByte (b.getLsbD k)).toNat = b.toNat / 2 ^ k % 2 := by
  rw [BitVec.getLsbD, Nat.testBit_eq_decide_div_mod_eq, toNat_flagByte_decide]
  split <;> omega

theorem toNat_flagByte_shiftedOutRight (b : Byte) :
    (flagByte (shiftedOutRight b)).toNat = b.toNat % 2 := by
  rw [shiftedOutRight, toNat_flagByte_getLsbD, pow_zero, Nat.div_one]

theorem toNat_flagByte_shiftedOutLeft (b : Byte) :
    (flagByte (shiftedOutLeft b)).toNat = b.toNat / 128 := by
  have := b.isLt
  rw [shiftedOutLeft, toNat_flagByte_getLsbD]
  omega

/-- Settles O33: the source that the quirk selects, shifted, and the bit that the shift loses. -/
theorem shiftsMoveOneBitToTheFlag : Obligations.ShiftsMoveOneBitToTheFlag := by
  rintro x y s _ rfl
  exact ⟨encodedAs_encode (.shr x y), encodedAs_encode (.shl x y),
    completes_of_commit_setResultFlag rfl rfl (toNat_byte_shiftRight_one _)
      (toNat_flagByte_shiftedOutRight _),
    completes_of_commit_setResultFlag rfl rfl (toNat_byte_shiftLeft_one _)
      (toNat_flagByte_shiftedOutLeft _)⟩

end Sys2Proof.Machine
end

section
/-!
PROOFS. Extended key, timer, index and memory instructions. The keys and the lowest of them; the
timers and the two arithmetic results that go to `I`; and the three instructions that access memory
at `I`, each above and below its bounds check, with a load on what a store left.
-/

namespace Sys2Proof.Machine

/-! ### The keys -/

/-- Settles O35: both rows of R25's table, with the one key read both ways. -/
theorem skipsOnAKey : Obligations.SkipsOnAKey :=
  fun x _ => ⟨encodedAs_encode (.skp x), encodedAs_encode (.sknp x),
    completes_pcAfter_of_commit rfl, completes_pcAfter_of_commit rfl⟩

/-- A held key with none held below it is the one that `FX0A` answers (R183). -/
theorem lowestKey_of_lowest {keys : BitVec 16} {k : Nat} (hk : k < 16)
    (hheld : keys.getLsbD k = true) (hbelow : ∀ j < k, keys.getLsbD j = false) :
    lowestKey keys = some k :=
  List.find?_range_eq_some.2
    ⟨hheld, List.mem_range.2 hk, fun j hj => by rw [hbelow j hj]; rfl⟩

/-- With no key held `FX0A` ends where it began, but for the publish (R183). -/
theorem exec_ldVxK_repeats (x : Nibble) {s : State} (h : s.keys = 0) :
    exec (.ldVxK x) s = .next (s.publish Output.published) := by
  obtain ⟨-, hu⟩ | ⟨hne, -⟩ := exec_ldVxK_cases x s
  · exact hu
  · exact absurd h hne

/-- With a key held `FX0A` writes the number of the lowest one to V[x] (R183). -/
theorem exec_ldVxK_takes (x : Nibble) {s : State} {k : Nat} (h : lowestKey s.keys = some k) :
    exec (.ldVxK x) s = (s.advance.setReg x (BitVec.ofNat 8 k)).commit := by
  simp only [exec, execLdVxK, h]

/-- Settles O36: with no key `pc` is put back (`exec_ldVxK_repeats`), and otherwise the lowest key
goes to one register. -/
theorem waitForKeyRepeatsOrTakesTheLowest : Obligations.WaitForKeyRepeatsOrTakesTheLowest := by
  refine fun x s => ⟨encodedAs_encode (.ldVxK x), exec_ldVxK_repeats x,
    fun k hk hheld hbelow => ?_⟩
  refine completes_of_commit (exec_ldVxK_takes x (lowestKey_of_lowest hk hheld hbelow))
    fun hframe => ⟨fun r => ?_, rfl, hframe⟩
  rw [publish_reg, reg_setReg, advance_reg, apply_ite BitVec.toNat, BitVec.toNat_ofNat,
    Nat.mod_eq_of_lt (by omega)]

/-! ### The timers and the index register -/

/-- Settles O37: one register write, and two writes of one timer each. -/
theorem timerReadAndWrites : Obligations.TimerReadAndWrites :=
  fun x s => ⟨encodedAs_encode (.ldVxDt x), encodedAs_encode (.ldDtVx x),
    encodedAs_encode (.ldStVx x),
    completes_of_commit rfl fun hframe => ⟨fun r => reg_setReg s.advance x r s.dt, rfl, hframe⟩,
    completes_of_commit rfl fun hframe => ⟨rfl, rfl, rfl, hframe⟩,
    completes_of_commit rfl fun hframe => ⟨rfl, rfl, rfl, hframe⟩⟩

/-- A register added to `I` in 16 bits (R188). -/
theorem toNat_add_byteWord (a : Word) (b : Byte) :
    (a + byteWord b).toNat = (a.toNat + b.toNat) % 65536 := by
  rw [BitVec.toNat_add, byteWord, BitVec.toNat_setWidth_of_le (by decide)]

/-- The glyph of a byte's low 4 bits lies below 0x0A0, so its address does not wrap (R189). -/
theorem toNat_glyphAddress_lowNibble (b : Byte) :
    (glyphAddress (lowNibble b)).toNat = 0x050 + 5 * (b.toNat % 16) := by
  have hlow : (lowNibble b).toNat = b.toNat % 16 := BitVec.extractLsb'_toNat 0 4 b
  rw [glyphAddress, BitVec.toNat_ofNat, hlow, fontBase]
  omega

/-- Settles O38: one write of `I` each, of the 16-bit sum and of the glyph's address. -/
theorem indexAdditionAndGlyphAddress : Obligations.IndexAdditionAndGlyphAddress :=
  fun x _ => ⟨encodedAs_encode (.addIVx x), encodedAs_encode (.ldFVx x),
    completes_of_commit rfl fun hframe => ⟨toNat_add_byteWord _ _, rfl, hframe⟩,
    completes_of_commit rfl fun hframe => ⟨toNat_glyphAddress_lowNibble _, rfl, hframe⟩⟩

/-- `I` after `FX55` and `FX65`: past the last byte under the quirk, and where it was without it. -/
theorem toNat_i_incrementI (s : State) (x : Nibble) :
    (s.incrementI x).i.toNat = if s.params.quirkLoadStoreIncI = true
      then (s.i.toNat + x.toNat + 1) % 65536 else s.i.toNat := by
  have hsum : (s.i + BitVec.ofNat 16 (x.toNat + 1)).toNat = (s.i.toNat + x.toNat + 1) % 65536 := by
    rw [BitVec.toNat_add, BitVec.toNat_ofNat]; omega
  rw [incrementI_eq, setI_i, apply_ite BitVec.toNat, hsum]

/-! ### The decimal digits -/

/-- Every digit fits its byte (R190). -/
theorem map_toNat_decimalDigits (b : Byte) :
    (decimalDigits b).map BitVec.toNat = [b.toNat / 100, b.toNat / 10 % 10, b.toNat % 10] := by
  have := b.isLt
  have hhundreds : b.toNat / 100 % 2 ^ 8 = b.toNat / 100 := Nat.mod_eq_of_lt (by omega)
  have htens : b.toNat / 10 % 10 % 2 ^ 8 = b.toNat / 10 % 10 := Nat.mod_eq_of_lt (by omega)
  have hones : b.toNat % 10 % 2 ^ 8 = b.toNat % 10 := Nat.mod_eq_of_lt (by omega)
  simp only [decimalDigits, List.map_cons, List.map_nil, BitVec.toNat_ofNat, hhundreds, htens,
    hones]

/-- With room for them the three digits stand from `a` on, hundreds first, and every other address
is as before (R190). -/
theorem toNat_read_writeBytes_decimalDigits {m : Memory} (hm : Memory.wf m) {a : Nat}
    (h : a + 2 ≤ 0xFFF) (b : Byte) (a' : Nat) :
    (Memory.read (Memory.writeBytes m a (decimalDigits b)) a').toNat =
      if a' = a then b.toNat / 100
      else if a' = a + 1 then b.toNat / 10 % 10
      else if a' = a + 2 then b.toNat % 10
      else (Memory.read m a').toNat := by
  have hdigit (k : Nat) : ((decimalDigits b).getD k 0).toNat =
      [b.toNat / 100, b.toNat / 10 % 10, b.toNat % 10].getD k 0 := by
    rw [← map_toNat_decimalDigits]
    exact (List.getD_map _ 0 BitVec.toNat).symm
  rw [Memory.read_writeBytes hm _ (by rw [length_decimalDigits, memSize]; omega),
    length_decimalDigits]
  by_cases ha : a ≤ a' ∧ a' < a + 3
  · obtain ⟨k, rfl⟩ := Nat.exists_eq_add_of_le ha.1
    have hk : k < 3 := by omega
    rw [if_pos ha, hdigit, Nat.add_sub_cancel_left]
    interval_cases k <;> simp
  · rw [if_neg ha, if_neg (by omega), if_neg (by omega), if_neg (by omega)]

/-- Settles O39: the three digits are stored, or the fault is taken. -/
theorem decimalDigitsAreStoredOrFault : Obligations.DecimalDigitsAreStoredOrFault := by
  intro x s
  refine ⟨encodedAs_encode (.ldBVx x), ?_⟩
  obtain ⟨hfit, hu⟩ | ⟨hbad, hf⟩ := exec_ldBVx_stores_or_faults x s
  · exact ⟨fun hm _ => completes_of_commit hu fun hframe =>
      ⟨toNat_read_writeBytes_decimalDigits hm hfit (s.reg x), rfl, hframe⟩, fun hbad => by omega⟩
  · exact ⟨fun _ hfit => by omega, fun _ => hf⟩

/-! ### Registers stored and loaded -/

/-- With room for them `FX55` leaves V0..V[x] from `I` on, and every other address as before
(R191). -/
theorem read_writeBytes_regsTo {s : State} {x : Nibble} (hm : MemoryCanonical s)
    (h : s.i.toNat + x.toNat ≤ 0xFFF) (a : Nat) :
    Memory.read (Memory.writeBytes s.mem s.i.toNat (s.regsTo x)) a =
      if s.i.toNat ≤ a ∧ a ≤ s.i.toNat + x.toNat then s.reg (BitVec.ofNat 4 (a - s.i.toNat))
      else Memory.read s.mem a := by
  have hlen := length_regsTo s x
  rw [Memory.read_writeBytes hm _ (by rw [hlen, memSize]; omega), hlen]
  by_cases ha : s.i.toNat ≤ a ∧ a ≤ s.i.toNat + x.toNat
  · rw [if_pos ha, if_pos (by omega), getD_regsTo s (by omega)]
  · rw [if_neg ha, if_neg (by omega)]

/-- Settles O40: the register list is stored and `I` moved as the quirk says, or the fault is
taken. -/
theorem registersAreStoredOrFault : Obligations.RegistersAreStoredOrFault := by
  intro x s
  refine ⟨encodedAs_encode (.ldMemVx x), ?_⟩
  obtain ⟨hfit, hu⟩ | ⟨hbad, hf⟩ := exec_ldMemVx_stores_or_faults x s
  · refine ⟨fun hm _ => completes_of_commit hu fun hframe =>
      ⟨fun a => ?_, toNat_i_incrementI _ x, ?_, hframe⟩, fun hbad => by omega⟩
    · rw [publish_mem, mem_incrementI, setMem_mem, read_writeBytes_regsTo hm hfit]
    · rw [publish_pc, pc_incrementI, setMem_pc, advance_pc]
  · exact ⟨fun _ hfit => by omega, fun _ => hf⟩

/-- The bytes at `I`..`I + x`, the ones that `FX65` loads (R192). -/
def State.bytesTo (s : State) (x : Nibble) : List Byte :=
  (List.range (x.toNat + 1)).map fun k => Memory.read s.mem (s.i.toNat + k)

theorem length_bytesTo (s : State) (x : Nibble) : (s.bytesTo x).length = x.toNat + 1 := by
  simp [State.bytesTo]

theorem getD_bytesTo (s : State) {x : Nibble} {k : Nat} (h : k ≤ x.toNat) :
    (s.bytesTo x).getD k 0 = Memory.read s.mem (s.i.toNat + k) := by
  have hk : k < x.toNat + 1 := by omega
  simp [State.bytesTo, List.getD_eq_getElem?_getD, hk]

/-- `FX65` loads the bytes from `I` when they fit, and faults when they do not (R192). -/
theorem exec_ldVxMem_loads_or_faults (x : Nibble) (s : State) :
    (s.i.toNat + x.toNat ≤ 0xFFF ∧
        exec (.ldVxMem x) s = ((s.advance.setRegs 0 (s.bytesTo x)).incrementI x).commit) ∨
      (0xFFF < s.i.toNat + x.toNat ∧
        FaultsWith (.ldVxMem x) s .invalidAddress (BitVec.ofNat 16 (max s.i.toNat 0x1000))) := by
  obtain ⟨hfit, hr⟩ | ⟨-, hbad, hr⟩ := memRead_cases s s.i.toNat (x.toNat + 1)
  · rw [memSize] at hfit
    exact .inl ⟨by omega, by simp only [exec, execLdVxMem, hr]; rfl⟩
  · rw [memSize] at hbad
    exact .inr ⟨by omega, by simp only [FaultsWith, exec, execLdVxMem, hr]; rfl⟩

/-- V0..V[x] take the bytes from `I` on, and the registers above V[x] stay (R192). -/
theorem reg_setRegs_bytesTo (s : State) (x r : Nibble) :
    (s.advance.setRegs 0 (s.bytesTo x)).reg r =
      if r.toNat ≤ x.toNat then Memory.read s.mem (s.i.toNat + r.toNat) else s.reg r := by
  have hlen := length_bytesTo s x
  by_cases hr : r.toNat ≤ x.toNat
  · have := x.isLt
    rw [reg_setRegs _ _ _ (by omega), if_pos (by omega), if_pos hr, Nat.sub_zero,
      getD_bytesTo s hr]
  · rw [reg_setRegs_of_lt hlen (by omega), if_neg hr, advance_reg]

/-- Settles O41: the bytes are loaded and `I` moved as the quirk says, or the fault is taken. -/
theorem registersAreLoadedOrFault : Obligations.RegistersAreLoadedOrFault := by
  intro x s
  refine ⟨encodedAs_encode (.ldVxMem x), ?_⟩
  obtain ⟨hfit, hu⟩ | ⟨hbad, hf⟩ := exec_ldVxMem_loads_or_faults x s
  · refine ⟨fun _ => completes_of_commit hu fun hframe =>
      ⟨fun r => ?_, ?_, ?_, hframe⟩, fun hbad => by omega⟩
    · rw [publish_reg, incrementI_eq, setI_reg, reg_setRegs_bytesTo]
    · rw [publish_i, toNat_i_incrementI, setRegs_eq]; rfl
    · rw [publish_pc, pc_incrementI, pc_setRegs, advance_pc]
  · exact ⟨fun hfit => by omega, fun _ => hf⟩

/-! ### A load on what a store left -/

/-- Settles O43: without the quirk the load reads where the store wrote, so each register up to V[x]
gets back the byte that came from it, and neither instruction touches the others. -/
theorem storeThenLoadKeepsTheRegisters : Obligations.StoreThenLoadKeepsTheRegisters := by
  intro x s hm hfit hquirk
  obtain ⟨-, hstore, -⟩ := registersAreStoredOrFault x s
  obtain ⟨t, ht, tmem, ti, -, tregs, -⟩ := hstore hm hfit
  have hi : t.i.toNat = s.i.toNat := by rw [ti, hquirk]; rfl
  obtain ⟨-, hload, -⟩ := registersAreLoadedOrFault x t
  obtain ⟨u, hu, ureg, -⟩ := hload (hi ▸ hfit)
  refine ⟨t, ht, u, hu, fun r => ?_⟩
  rw [ureg, hi, tmem, tregs (by decide) r]
  by_cases hr : r.toNat ≤ x.toNat
  · rw [if_pos hr, if_pos (by omega), Nat.add_sub_cancel_left, BitVec.ofNat_toNat,
      BitVec.setWidth_eq]
  · rw [if_neg hr]

end Sys2Proof.Machine
end

section
/-!
SUPPORT and PROOFS. The exceptions family: which event comes next; the tick, run control and the
keypad as updates of the state in which the event has been taken; and what a machine whose engine is
disabled, by a fault or by `RUN` = STOPPED, keeps in a transition.
-/

namespace Sys2Proof.Machine

/-! ### Which event comes next -/

/-- With no event pending the next one is free (log entry 2). -/
theorem nextEvent_free {s : State} (h : s.pending = []) :
    s.nextEvent = (Config.freeEvent s.eventIx, { s with eventIx := s.eventIx + 1 }) := by
  unfold State.nextEvent; rw [h]

/-- Settles O11: the next event is the oldest pending one or, with none pending, a free one. -/
theorem anyEventCanComeNext : Obligations.AnyEventCanComeNext :=
  fun _ _ _ => ⟨step_of_event (nextEvent_pending rfl), step_of_event (nextEvent_free rfl)⟩

/-! ### Ticks, run control and the keypad -/

theorem run_nextEvent (s : State) : s.nextEvent.2.run = s.run := by rw [nextEvent_eq]

theorem run_taken {s s' : State} {e : Event} (h : s.nextEvent = (e, s')) : s'.run = s.run := by
  rw [← run_nextEvent s, h]

theorem sameTimers_taken {s s' : State} {e : Event} (h : s.nextEvent = (e, s')) :
    sameTimers s s' := by
  rw [taken_eq h]; exact ⟨rfl, rfl⟩

/-- The audio level of R226, as a comparison of numbers. -/
theorem decide_ne_zero_eq_decide_toNat_pos (b : Byte) :
    decide (b ≠ 0) = decide (0 < b.toNat) := by
  rw [decide_eq_decide]; bv_omega

/-- Settles O13: while RUNNING both timers count down and the level is that of the old ST; while
STOPPED a tick drives nothing. Taking the event moves neither `RUN` nor a timer. -/
theorem tickCountsBothTimersDown : Obligations.TickCountsBothTimersDown := by
  intro s s' h
  have hrun := run_taken h
  obtain ⟨hdt, hst⟩ := sameTimers_taken h
  refine ⟨fun hr => ⟨s'.tick, step_of_event h, ?_⟩, fun hr => ?_⟩
  · rw [tick_running (hrun.trans hr), ← hdt, ← hst, ← decide_ne_zero_eq_decide_toNat_pos]
    exact ⟨countDown_toNat _, countDown_toNat _, rfl, rfl⟩
  · exact (step_of_event h).trans (congrArg _ (tick_stopped (hrun.trans hr)))

/-- Settles O14: each of the two events is one write of `RUN`. -/
theorem runAndStopChangeRunAlone : Obligations.RunAndStopChangeRunAlone :=
  fun _ _ => ⟨step_of_event, step_of_event⟩

/-- Settles O15: the event is one write of the level of `keys` (log entry 3). -/
theorem keypadChangesKeysAlone : Obligations.KeypadChangesKeysAlone :=
  fun _ _ _ => step_of_event

/-! ### The machine whose engine is disabled -/

theorem not_engineEnabled_of_stopped {s : State} (h : s.run = .stopped) : ¬ s.engineEnabled := by
  rintro ⟨hrun, -⟩
  rw [h] at hrun
  cases hrun

theorem not_engineEnabled_of_faulted {s : State} (h : s.fault.cause ≠ .none) :
    ¬ s.engineEnabled := by
  rintro ⟨-, hfault⟩
  exact h hfault

/-- `stop()` on a machine that is STOPPED only silences the outputs. -/
theorem halt_stopped {s : State} (h : s.run = .stopped) : s.halt = s.drive Output.silent := by
  unfold State.halt; rw [← h]; rfl

/-- The event is no load of a ROM that fits: the one event that can reset the machine (R253). -/
def NoFittingLoad (e : Event) : Prop := ∀ rom, e = .load rom → 4096 < 0x200 + rom.length

/-- A load that does not fit drives its refusal and changes nothing (R254). -/
theorem loadRom_refused {s : State} {rom : List Byte} (h : NoFittingLoad (.load rom)) :
    s.loadRom rom = s.drive { Output.silent with load := some (.outOfBounds rom.length) } :=
  loadRom_outOfBounds (h rom rfl)

theorem HostMove.trans {s t u : State} (hst : HostMove s t) (htu : HostMove t u) :
    HostMove s u where
  v := htu.v.trans hst.v
  i := htu.i.trans hst.i
  pc := htu.pc.trans hst.pc
  stack := htu.stack.trans hst.stack
  sp := htu.sp.trans hst.sp
  mem := htu.mem.trans hst.mem
  disp := htu.disp.trans hst.disp
  fault := htu.fault.trans hst.fault
  params := htu.params.trans hst.params
  randIx := htu.randIx.trans hst.randIx
  dispOut := htu.dispOut.trans hst.dispOut

/-- With the engine disabled every event but a load that fits is a move of the host (R100). -/
theorem hostMove_handle_of_disabled {s t : State} {e : Event} (hoff : ¬ s.engineEnabled)
    (hload : NoFittingLoad e) (h : s.handle e = .next t) : HostMove s t := by
  obtain ⟨-, h⟩ | ⟨rom, rfl, hfit, -⟩ | hm := handle_cases h
  · rw [engineStep_disabled hoff] at h
    cases h
    exact hostMove_drive ..
  · exact absurd (hload rom rfl) (Nat.not_lt_of_le hfit)
  · exact hm

/-- Settles O51: a fault disables the engine, so the host alone moves. -/
theorem faultIsStickyUntilALoad : Obligations.FaultIsStickyUntilALoad := by
  intro s t hfault h hload
  have hoff : ¬ s.nextEvent.2.engineEnabled := by
    rw [engineEnabled_nextEvent]
    exact not_engineEnabled_of_faulted hfault
  have hm : HostMove s t :=
    (hostMove_nextEvent s).trans (hostMove_handle_of_disabled hoff hload h)
  exact ⟨hm.fault, hm.v, hm.i, hm.pc, hm.sp, hm.stack, hm.mem, hm.disp, hm.dispOut⟩

/-- `t` is `s` but for the inputs that wait and the strobed outputs. -/
def SameButPorts (s t : State) : Prop :=
  t = { s with keys := t.keys, pending := t.pending, eventIx := t.eventIx, out := t.out }

theorem sameButPorts_drive (s : State) (o : Output) : SameButPorts s (s.drive o) := rfl

theorem sameButPorts_setKeys (s : State) (held : BitVec 16) : SameButPorts s (s.setKeys held) := rfl

theorem sameButPorts_nextEvent (s : State) : SameButPorts s s.nextEvent.2 := by
  rw [nextEvent_eq]; rfl

theorem SameButPorts.trans {s t u : State} (hst : SameButPorts s t) (htu : SameButPorts t u) :
    SameButPorts s u := by
  unfold SameButPorts at hst htu
  rw [hst] at htu
  exact htu

/-- While STOPPED every event but `run()` and a load that fits moves the ports alone (R100, R227,
R231, R254). -/
theorem sameButPorts_handle_of_stopped {s t : State} {e : Event} (hs : s.run = .stopped)
    (hrun : e ≠ .run) (hload : NoFittingLoad e) (h : s.handle e = .next t) :
    SameButPorts s t := by
  cases e with
  | step =>
    rw [State.handle, engineStep_disabled (not_engineEnabled_of_stopped hs)] at h
    cases h
    exact sameButPorts_drive ..
  | tick =>
    cases h
    rw [tick_stopped hs]
    exact sameButPorts_drive ..
  | run => exact absurd rfl hrun
  | stop =>
    cases h
    rw [halt_stopped hs]
    exact sameButPorts_drive ..
  | load rom =>
    cases h
    rw [loadRom_refused hload]
    exact sameButPorts_drive ..
  | keys held =>
    cases h
    exact sameButPorts_setKeys ..

/-- Settles O52: taking the event moves the ports alone, and so does what is left to happen while
STOPPED. -/
theorem stoppedMachineKeepsItsState : Obligations.StoppedMachineKeepsItsState := by
  intro s t hs h hrun hload
  exact (sameButPorts_nextEvent s).trans
    (sameButPorts_handle_of_stopped ((run_nextEvent s).trans hs) hrun hload h)

end Sys2Proof.Machine
end

section
/-!
PROOFS. Reset and hazards: what a load of a ROM that fits leaves in memory and in the registers, and
the step of an engine that is parked at a jump to itself.
-/

namespace Sys2Proof.Machine

/-! ### A ROM in a machine that has been reset -/

/-- The reset contents of every address: the font in its 80 bytes, 0 elsewhere (R51, R53). -/
theorem Memory.initial_eq (a : Nat) : Memory.initial a =
    if 0x050 ≤ a ∧ a < 0x0A0 then fontBytes.getD (a - 0x050) 0 else 0 := by
  split
  · next h => exact if_pos h.1
  · next h => exact Memory.initial_eq_zero h

/-- The ROM's bytes stand from 0x200, over the reset contents (R250, R253). -/
theorem read_mem_loaded (s : State) {rom : List Byte} (h : 0x200 + rom.length ≤ 4096) (a : Nat) :
    Memory.read (s.loaded rom).mem a =
      if 0x200 ≤ a ∧ a < 0x200 + rom.length then rom.getD (a - 0x200) 0
      else if 0x050 ≤ a ∧ a < 0x0A0 then fontBytes.getD (a - 0x050) 0 else 0 := by
  rw [← Memory.initial_eq]
  exact Memory.read_writeBytes Memory.wf_nil rom h a

/-- Every register holds 0 after a load that fits (R250). -/
theorem reg_loaded (s : State) (rom : List Byte) (r : Nibble) : (s.loaded rom).reg r = 0 :=
  reg_resetBlock s r

/-- Every stack entry holds 0 after a load that fits (R250). -/
theorem stack_loaded (s : State) (rom : List Byte) (k : Fin 16) : (s.loaded rom).stack[k] = 0 := by
  simp [State.loaded]

theorem keys_taken {s s' : State} {e : Event} (h : s.nextEvent = (e, s')) : s'.keys = s.keys := by
  rw [taken_eq h]

/-- Settles O16: a load that fits is a reset and one write of consecutive bytes, on what the taken
event left; one that does not fit drives its refusal alone. -/
theorem romLoadResetsAndPlacesOrRefuses : Obligations.RomLoadResetsAndPlacesOrRefuses := by
  intro s s' rom h
  have hm := hostMove_taken h
  have hrun := run_taken h
  have hkeys := keys_taken h
  constructor
  · intro hfit
    have hload : step s = .next (s'.loaded rom) :=
      (step_of_event h).trans (congrArg _ (loadRom_ok hfit))
    exact ⟨s'.loaded rom, hload, rfl, read_mem_loaded s' hfit, reg_loaded s' rom, rfl, rfl, rfl,
      stack_loaded s' rom, rfl, rfl, Display.cell_blank, rfl, hrun, hm.params, hkeys, rfl, rfl,
      hm.randIx, hm.dispOut⟩
  · intro hlong
    exact (step_of_event h).trans (congrArg _ (loadRom_outOfBounds hlong))

/-! ### A jump to itself -/

theorem toNat_fieldNNN_of_lt {a : Word} (h : a.toNat < 0x1000) :
    (fieldNNN a).toNat = a.toNat := by
  rw [fieldNNN_toNat, Nat.mod_eq_of_lt h]

/-- An address of memory is its own 12-bit field, extended (R83). -/
theorem addrWord_fieldNNN {a : Word} (h : a.toNat < 0x1000) : addrWord (fieldNNN a) = a :=
  BitVec.eq_of_toNat_eq ((toNat_addrWord _).trans (toNat_fieldNNN_of_lt h))

/-- The word of R267 (b) is that of `1NNN` with the address as its target. -/
theorem encode_jp_fieldNNN {a : Word} (h : a.toNat < 0x1000) :
    encode (.jp (fieldNNN a)) = 0x1000 ||| a := by
  apply BitVec.eq_of_toNat_eq
  have hor : (0x1000 ||| a).toNat = 0x1000 + a.toNat :=
    (BitVec.toNat_or ..).trans (Nat.two_pow_add_eq_or_of_lt (i := 12) h 1).symm
  rw [hor, encode, joinA_toNat, toNat_fieldNNN_of_lt h]
  rfl

/-- A jump to where `pc` stands changes nothing but the publish (R121). -/
theorem exec_jp_of_addrWord_eq {nnn : Addr} {s : State} (h : addrWord nnn = s.pc) :
    exec (.jp nnn) s = .next { s with dispOut := s.disp, out := Output.published } := by
  have hjp : exec (.jp nnn) s = .next { s with
      pc := addrWord nnn, dispOut := s.disp, out := Output.published } := rfl
  rw [hjp, h]

/-- Settles O45: the parked word decodes to the jump to `pc` under either set, and taking the strobe
moves neither the word nor the display. -/
theorem parkedStepOnlyPublishes : Obligations.ParkedStepOnlyPublishes := by
  intro s s' hparked h hrun hfault
  obtain ⟨hpc, hword⟩ := hparked
  have hlt : s.pc.toNat < 0x1000 := by omega
  have hm := hostMove_taken h
  have he : s'.engineEnabled := (engineEnabled_taken h).2 ⟨hrun, hfault⟩
  have hfetch : s'.fetchWord s'.pc = .ok (encode (.jp (fieldNNN s.pc))) := by
    rw [hm.fetchWord_eq, hword, encode_jp_fieldNNN hlt]
  have hdecode := decodeWord_encode_of_isDocumented s'.params.opcodeSet
    (i := .jp (fieldNNN s.pc)) rfl
  have htarget : addrWord (fieldNNN s.pc) = s'.pc := (addrWord_fieldNNN hlt).trans hm.pc.symm
  rw [← hm.disp, step_of_event h]
  exact (engineStep_exec he hfetch hdecode).trans (exec_jp_of_addrWord_eq htarget)

end Sys2Proof.Machine
end
